-- ==== Sys2Proof/Word.lean ====
section
/-! DEFINITION. The machine words of the ZLBD: the types ZDL gives its samples and Parameters (00_scope.md R6, R8). -/

namespace Sys2Proof

/-- A u16 sample (10_state.md R21). -/
abbrev Sample := BitVec 16

/-- A word of type i32, signed 32-bit two's complement (00_scope.md R8). -/
abbrev I32 := BitVec 32

/-- A word of type u32 (00_scope.md R8). -/
abbrev U32 := BitVec 32

/-- A header entry of a BlockLine, an integer 0..15 (10_state.md R21). -/
abbrev HdrVal := BitVec 4

/-- A magnitude class, the value 0..12 of one prefix codeword (00_scope.md R9, 30_encoding.md R68). -/
abbrev Cls := Fin 13

end Sys2Proof
end

