-- ==== Sys2Proof/Config.lean ====
section
/-! DEFINITION. The configuration: the thirteen Parameters (00_scope.md R6), the fixed constants (R7), the shape of
a line buffer (10_state.md R21), and the values no source fixes, each an opaque constant without a body:
the hooks (46_line_decoder.md R173, 45_noise_estimator.md R152), the two open reset values of the noise
registers (10_state.md R25) and the free values (93_implementation_defined.md U5, U6). -/

namespace Sys2Proof

/-- The Parameters, "immutable per line decoder instance" (00_scope.md R6). The fields keep ZDL's names and types;
which values are legal is `Machine.legalParams`. -/
structure Parameters where
  defaultPixValue : Sample
  maxAllowedPixelValue : I32
  maxAllowedRawValue : I32
  maxValuesCount : I32
  blocksCount : I32
  stride : Bool
  alignMode : I32
  lossless : Bool
  bitdepthReal : I32
  bayerPattern : U32
  noiseLevel1 : I32
  noiseLevel2 : I32
  noiseLevelDistance : U32
deriving DecidableEq, Repr, Inhabited

/-- All parameter lines of the command port at 0: what the port carries beside a command code that has no
argument (30_encoding.md R74). -/
def Parameters.zero : Parameters :=
  { defaultPixValue := 0, maxAllowedPixelValue := 0, maxAllowedRawValue := 0, maxValuesCount := 0,
    blocksCount := 0, stride := false, alignMode := 0, lossless := false, bitdepthReal := 0,
    bayerPattern := 0, noiseLevel1 := 0, noiseLevel2 := 0, noiseLevelDistance := 0 }

/-- A BlockLine (10_state.md R21): `blocks` rows of `BLOCK_SIZE` u16 samples and `blocks` header entries.
The samples are the pairs (key, sample) that differ from `fill`, the value a position holds that no store
has changed since construction (R25); the key of position `(blk, i)` is `blk * BLOCK_SIZE + i` (the flattening order
of 46_line_decoder.md R174). The header entries are the pairs (blk, value) that differ from 0 (R25).
DEDUCED, notes/assumptions/11.md. -/
structure BlockLine where
  blocks : Nat
  fill : Sample
  samples : List (Nat × Sample)
  headers : List (Nat × HdrVal)
deriving DecidableEq, Repr, Inhabited

/-- Eight words, the noise history `noise_levels[0..7]` (10_state.md R20). -/
abbrev History := Vector I32 8

namespace Config

/-! ### Fixed constants (00_scope.md R7) -/

/-- `BLOCK_SIZE`. -/
abbrev blockSize : Nat := 16
/-- `PEEK_BITS`. -/
abbrev peekBits : Nat := 48
/-- `G_INIT`. -/
abbrev gInit : Nat := 4
/-- `K_CAP`. -/
abbrev kCap : Nat := 6
/-- `ESCAPE_CLASS`. -/
abbrev escapeClass : Cls := 12
/-- `MAX_CLASS_PLAIN`. -/
abbrev maxClassPlain : Nat := 11
/-- `TRUNCATE_SHIFT`. -/
abbrev truncateShift : Nat := 10

/-! ### The hooks (46_line_decoder.md R173, 45_noise_estimator.md R152)

Each takes the arguments the spec lists and, last, the state the HOOKS keep for themselves (10_state.md R26), coded as
a number; it answers the new content and the new private state. Nothing is known of any of them
(notes/assumptions/7.md). -/

/-- `PPA(line_a_prev, is_needed_field(), noise_level)`. -/
opaque postProcessA (line : BlockLine) (neededField : Bool) (noiseLevel : I32) (hooks : Nat) : BlockLine × Nat

/-- `PPB(upper ? line_b_prev : line_c_prev, noise_level)`. -/
opaque postProcessB (line : BlockLine) (noiseLevel : I32) (hooks : Nat) : BlockLine × Nat

/-- `TRUNC(line, bitdepth_real, shift)`. -/
opaque truncate (line : BlockLine) (bitdepthReal : I32) (shift : Nat) (hooks : Nat) : BlockLine × Nat

/-- `EST(noise_level_1, noise_level_2, count, noise_levels)`: the new level and the new history. -/
opaque estimateNoiseLevel (noiseLevel1 noiseLevel2 : I32) (count : Nat) (history : History) (hooks : Nat) :
    (I32 × History) × Nat

/-! ### Open reset values (10_state.md R25; notes/assumptions/6.md) -/

/-- `NOISE_LEVEL_INIT`. -/
opaque noiseLevelInit : I32

/-- `NOISE_HISTORY_INIT`. -/
opaque noiseHistoryInit : History

/-! ### Free values (93_implementation_defined.md U5, U6; notes/assumptions/4.md, 5.md)

The first argument is the machine's counter `freeCtr`, the second tells the registers of one use apart. -/

/-- A natural number nothing constrains. -/
opaque freeNat (use slot : Nat) : Nat

/-- A 32-bit word nothing constrains. -/
opaque freeWord (use slot : Nat) : BitVec 32

/-- A sample nothing constrains. -/
opaque freeSample (use slot : Nat) : Sample

/-- A bit nothing constrains. -/
opaque freeBool (use slot : Nat) : Bool

/-- A line buffer nothing constrains. -/
opaque freeLine (use slot : Nat) : BlockLine

/-- A noise history nothing constrains. -/
opaque freeHistory (use : Nat) : History

end Config

end Sys2Proof
end

