-- ==== Sys2Proof/Syntax.lean ====
section
/-! DEFINITION. The instructions of the ZLBD: one constructor for each row of opcode_table.json. They are the stream
elements (30_encoding.md R60 to R71) and the host commands (R74). -/

namespace Sys2Proof

/-- One row of the opcode table each. The operands are the fields of the format tables of 30_encoding.md; the widths of
LSB fields and raw samples are not operands, they follow from the decoder's state (R67, R70). -/
inductive Instr where
  /-- `HDR.L m` (R62, 46_line_decoder.md R163). -/
  | hdrL (m : Bool)
  /-- `HDR.F d, m` (R63, R164). -/
  | hdrF (d : BitVec 4) (m : Bool)
  /-- `HDR.K m` (R64, R165). -/
  | hdrK (m : Bool)
  /-- `HDR.D code, m` (R65, R166). -/
  | hdrD (code : BitVec 2) (m : Bool)
  /-- `PFX.0` (40_prefix_code.md R81). -/
  | pfx0
  /-- `PFX.1` (R82). -/
  | pfx1
  /-- `PFX.2` (R83). -/
  | pfx2
  /-- `PFX.3` (R84). -/
  | pfx3
  /-- `PFX.4` (R85). -/
  | pfx4
  /-- `PFX.5` (R86). -/
  | pfx5
  /-- `PFX.6` (R87). -/
  | pfx6
  /-- `PFX.7` (R88). -/
  | pfx7
  /-- `PFX.8` (R89). -/
  | pfx8
  /-- `PFX.11` (R90). -/
  | pfx11
  /-- `PFX.12`, the escape (R91). -/
  | pfx12
  /-- `PFX.10` (R92). -/
  | pfx10
  /-- `PFX.9` (R93). -/
  | pfx9
  /-- `VLPAIR ca:lsa, cb:lsb` (R67, 42_block_vl.md R110): the two classes and the values of the two LSB fields. -/
  | vlpair (ca : Cls) (lsa : Nat) (cb : Cls) (lsb : Nat)
  /-- `RAWPAIR v1, v2` (R70, 43_block_raw.md R130). -/
  | rawpair (v1 v2 : Nat)
  /-- `PAD` (R71, 46_line_decoder.md R170). -/
  | pad
  /-- `CONSTRUCT P`, cmd 000 (70_reset_and_hazards.md R221). -/
  | construct (P : Parameters)
  /-- `READ_NEXT`, cmd 001 (46_line_decoder.md R169). -/
  | readNext
  /-- `READ_LINE`, cmd 010 (R171). -/
  | readLine
  /-- `FINALIZE_LINE`, cmd 011 (R172). -/
  | finalizeLine
  /-- `LINE_A`, cmd 100 (R174). -/
  | lineA
  /-- `LINE_B`, cmd 101 (R175). -/
  | lineB
  /-- A reserved command code, cmd 110 (`odd = false`) or 111 (`odd = true`) (60_exceptions.md R192). -/
  | reserved (odd : Bool)
deriving DecidableEq, Repr

/-- Where an instruction is fetched, with the decoder state its format depends on (30_encoding.md R66, R67, R72).
The same bits mean different instructions in different places (R66). -/
inductive FetchCtx where
  /-- The command port (R74). -/
  | port
  /-- The start of a block: `lossless`, and whether `read_values_count` is 0 (R66). -/
  | header (lossless first : Bool)
  /-- Inside a block of mode 0: the plain LSB widths of A and B, and the BlockParameter `f` (R67). -/
  | vlpair (ka kb f : Nat)
  /-- Inside a block of mode 1: the BlockParameter `f` (R70). -/
  | rawpair (f : Nat)
  /-- After the last block of a line with `stride`: the number of padding bits (R71). -/
  | pad (n : Nat)
  /-- A codeword of the prefix code on its own (R68). -/
  | codeword
deriving DecidableEq, Repr

/-- What the fetch delivers: the command port's code and parameter lines (R74, R229), or stream bits, the bit at `pos`
first (R61). -/
inductive Code where
  | port (cmd : BitVec 3) (arg : Parameters)
  | bits (bs : List Bool)
deriving DecidableEq, Repr

end Sys2Proof
end

