-- ==== Sys2Proof/Decode.lean ====
section
/-! DEFINITION. Decoder and encoder (30_encoding.md). The bits of a stream element are read as a non-negative integer
whose bit `k` is the `k`-th next stream bit (R41, R61). Every bit pattern decodes in its place (R73, R94); what is rejected, by
name, is a command code in the stream or stream bits on the command port. -/

namespace Sys2Proof

/-! ### Bit fields (20_memory.md R41, 00_scope.md R8) -/

/-- The integer whose bit `k` is the `k`-th element of the list: the first bit is the least significant (R41). -/
def valueOf : List Bool → Nat
  | [] => 0
  | b :: bs => b.toNat + 2 * valueOf bs

/-- The `n` low bits of `v`, least significant first (R61). -/
def bitsOf : Nat → Nat → List Bool
  | 0, _ => []
  | n + 1, v => (v % 2 == 1) :: bitsOf n (v / 2)

/-- `W & (2^n - 1)`: the `n` low bits of `W` (R69). -/
def lowBits (W n : Nat) : Nat := W % 2 ^ n

/-! ### The prefix code (40_prefix_code.md) -/

/-- The number of leading zero bits, at most `fuel` (R80 calls it with 9). -/
def leadingZeros : Nat → Nat → Nat
  | 0, _ => 0
  | fuel + 1, W => if W % 2 = 1 then 0 else leadingZeros fuel (W / 2) + 1

/-- `DecodePrefix(W)` (R80): the class and the length of the codeword at the start of `W`. -/
def decodePrefix (W : Nat) : Cls × Nat :=
  let i := leadingZeros 9 W
  let t := W.testBit (i + 1)
  match i with
  | 0 => (0, 1)
  | 1 => (1, 2)
  | 2 => (2, 3)
  | 3 => (3, 4)
  | 4 => (4, 5)
  | 5 => (if t then 6 else 5, 7)
  | 6 => (if t then 8 else 7, 8)
  | 7 => (if t then 12 else 11, 9)
  | 8 => (10, 9)
  | _ => (9, 9)

/-- The length of each class's codeword (30_encoding.md R68). -/
def prefixSize (c : Cls) : Nat :=
  match c.val with
  | 0 => 1
  | 1 => 2
  | 2 => 3
  | 3 => 4
  | 4 => 5
  | 5 => 7
  | 6 => 7
  | 7 => 8
  | 8 => 8
  | _ => 9

/-- Each class's codeword as a number, the `match` column of R68. -/
def prefixMatch (c : Cls) : Nat :=
  match c.val with
  | 0 => 0x001
  | 1 => 0x002
  | 2 => 0x004
  | 3 => 0x008
  | 4 => 0x010
  | 5 => 0x020
  | 6 => 0x060
  | 7 => 0x040
  | 8 => 0x0C0
  | 9 => 0x000
  | 10 => 0x100
  | 11 => 0x080
  | _ => 0x180

/-- The codeword of a class, first stream bit first. -/
def prefixBits (c : Cls) : List Bool := bitsOf (prefixSize c) (prefixMatch c)

/-- The width of a component's LSB field: `f` after the escape class, else the plain width `k`
(42_block_vl.md R114). -/
def lsbWidth (c : Cls) (k f : Nat) : Nat := if c = Config.escapeClass then f else k

/-! ### Decoding each place -/

/-- A decoded block header (30_encoding.md R62 to R65). -/
inductive Header where
  | L (m : Bool)
  | F (d : BitVec 4) (m : Bool)
  | K (m : Bool)
  | D (code : BitVec 2) (m : Bool)
deriving DecidableEq, Repr

/-- Which header format applies is decided by `lossless`, then by `read_values_count == 0`, then by bit 0
(30_encoding.md R66, 46_line_decoder.md R162). -/
def decodeHeader (lossless first : Bool) (W : Nat) : Header :=
  if lossless then .L (W.testBit 0)
  else if first then .F (BitVec.ofNat 4 W) (W.testBit 4)
  else if W.testBit 0 = false then .K (W.testBit 1)
  else .D (BitVec.ofNat 2 (W >>> 1)) (W.testBit 3)

/-- The fields of a VLPAIR (30_encoding.md R67). -/
structure VlFields where
  ca : Cls
  lsa : Nat
  cb : Cls
  lsb : Nat
deriving DecidableEq, Repr

/-- Both prefixes, then both LSB fields, cut from the low end of the window (42_block_vl.md R113, R114). -/
def decodeVlpair (ka kb f W : Nat) : VlFields :=
  let (ca, sa) := decodePrefix W
  let W1 := W >>> sa
  let (cb, sb) := decodePrefix W1
  let W2 := W1 >>> sb
  let la := lsbWidth ca ka f
  let W3 := W2 >>> la
  { ca := ca, lsa := lowBits W2 la, cb := cb, lsb := lowBits W3 (lsbWidth cb kb f) }

/-- The two samples of a RAWPAIR, A first (30_encoding.md R70). -/
def decodeRawpair (f W : Nat) : Nat × Nat := (lowBits W f, lowBits (W >>> f) f)

/-- A codeword on its own as the row of the opcode table it is (30_encoding.md R68). -/
def codewordInstr (c : Cls) : Instr :=
  match c.val with
  | 0 => .pfx0
  | 1 => .pfx1
  | 2 => .pfx2
  | 3 => .pfx3
  | 4 => .pfx4
  | 5 => .pfx5
  | 6 => .pfx6
  | 7 => .pfx7
  | 8 => .pfx8
  | 9 => .pfx9
  | 10 => .pfx10
  | 11 => .pfx11
  | _ => .pfx12

/-- The header as an instruction. -/
def headerInstr : Header → Instr
  | .L m => .hdrL m
  | .F d m => .hdrF d m
  | .K m => .hdrK m
  | .D code m => .hdrD code m

/-- The VL pair as an instruction. -/
def vlInstr (p : VlFields) : Instr := .vlpair p.ca p.lsa p.cb p.lsb

/-- The command codes (30_encoding.md R74). -/
def decodeCommand (cmd : BitVec 3) (arg : Parameters) : Instr :=
  match cmd.toNat with
  | 0 => .construct arg
  | 1 => .readNext
  | 2 => .readLine
  | 3 => .finalizeLine
  | 4 => .lineA
  | 5 => .lineB
  | 6 => .reserved false
  | _ => .reserved true

/-- Why the decoder rejects what it is given. The step never gives it either. -/
inductive DecodeError where
  /-- A command code stands where stream bits are fetched. -/
  | commandCodeInStream
  /-- Stream bits stand where a command is fetched. -/
  | streamBitsOnCommandPort
deriving DecidableEq, Repr

/-- The decoder of stream elements: total, over the window of the next bits (20_memory.md R42). -/
def decodeElement (c : FetchCtx) (W : Nat) : Except DecodeError Instr :=
  match c with
  | .port => .error .streamBitsOnCommandPort
  | .header lossless first => .ok (headerInstr (decodeHeader lossless first W))
  | .vlpair ka kb f => .ok (vlInstr (decodeVlpair ka kb f W))
  | .rawpair f => .ok (.rawpair (decodeRawpair f W).1 (decodeRawpair f W).2)
  | .pad _ => .ok .pad
  | .codeword => .ok (codewordInstr (decodePrefix W).1)

/-- The decoder: the instruction that what was fetched stands for in its place (30_encoding.md R66). A stream element is
read from a window of `PEEK_BITS` bits, zero beyond the end of the stream (20_memory.md R42). -/
def decode (c : FetchCtx) : Code → Except DecodeError Instr
  | .bits bs => decodeElement c (valueOf (bs.take Config.peekBits))
  | .port cmd arg =>
    match c with
    | .port => .ok (decodeCommand cmd arg)
    | .header _ _ | .vlpair _ _ _ | .rawpair _ | .pad _ | .codeword => .error .commandCodeInStream

/-! ### The encoder -/

/-- The command code of a command (30_encoding.md R74). -/
def commandCode : Instr → Option (BitVec 3)
  | .construct _ => some 0
  | .readNext => some 1
  | .readLine => some 2
  | .finalizeLine => some 3
  | .lineA => some 4
  | .lineB => some 5
  | .reserved odd => some (if odd then 7 else 6)
  | .hdrL _ | .hdrF _ _ | .hdrK _ | .hdrD _ _ | .pfx0 | .pfx1 | .pfx2 | .pfx3 | .pfx4 | .pfx5 | .pfx6 | .pfx7
  | .pfx8 | .pfx9 | .pfx10 | .pfx11 | .pfx12 | .vlpair _ _ _ _ | .rawpair _ _ | .pad => none

/-- The parameter lines that go with a command (70_reset_and_hazards.md R229). -/
def commandArg : Instr → Parameters
  | .construct P => P
  | .readNext | .readLine | .finalizeLine | .lineA | .lineB | .reserved _ | .hdrL _ | .hdrF _ _ | .hdrK _ | .hdrD _ _
  | .pfx0 | .pfx1 | .pfx2 | .pfx3 | .pfx4 | .pfx5 | .pfx6 | .pfx7 | .pfx8 | .pfx9 | .pfx10 | .pfx11 | .pfx12
  | .vlpair _ _ _ _ | .rawpair _ _ | .pad => .zero

/-- The bits of a VLPAIR for the widths of its place: both prefixes, then both LSB fields, each least significant bit
first (30_encoding.md R67). -/
def encodeVlpair (ka kb f : Nat) (p : VlFields) : List Bool :=
  prefixBits p.ca ++ (prefixBits p.cb ++
    (bitsOf (lsbWidth p.ca ka f) p.lsa ++ bitsOf (lsbWidth p.cb kb f) p.lsb))

/-- The bits of a stream element in a place (30_encoding.md R62 to R71). A command has none. -/
def encodeBits (c : FetchCtx) : Instr → List Bool
  | .hdrL m => [m]
  | .hdrF d m => bitsOf 4 d.toNat ++ [m]
  | .hdrK m => [false, m]
  | .hdrD code m => true :: (bitsOf 2 code.toNat ++ [m])
  | .pfx0 => prefixBits 0
  | .pfx1 => prefixBits 1
  | .pfx2 => prefixBits 2
  | .pfx3 => prefixBits 3
  | .pfx4 => prefixBits 4
  | .pfx5 => prefixBits 5
  | .pfx6 => prefixBits 6
  | .pfx7 => prefixBits 7
  | .pfx8 => prefixBits 8
  | .pfx9 => prefixBits 9
  | .pfx10 => prefixBits 10
  | .pfx11 => prefixBits 11
  | .pfx12 => prefixBits 12
  | .vlpair ca lsa cb lsb =>
    match c with
    | .vlpair ka kb f => encodeVlpair ka kb f ⟨ca, lsa, cb, lsb⟩
    | .port | .header _ _ | .rawpair _ | .pad _ | .codeword => []
  | .rawpair v1 v2 =>
    match c with
    | .rawpair f => bitsOf f v1 ++ bitsOf f v2
    | .port | .header _ _ | .vlpair _ _ _ | .pad _ | .codeword => []
  | .pad =>
    match c with
    | .pad n => List.replicate n false
    | .port | .header _ _ | .vlpair _ _ _ | .rawpair _ | .codeword => []
  | .construct _ | .readNext | .readLine | .finalizeLine | .lineA | .lineB | .reserved _ => []

/-- The encoder: what stands in a place for an instruction that is well formed there. -/
def encode (c : FetchCtx) (i : Instr) : Code :=
  match commandCode i with
  | some cmd => .port cmd (commandArg i)
  | none => .bits (encodeBits c i)

/-! ### The opcode table's words

The table numbers three spaces over the same small words: the 3-bit command codes, the headers and the prefix codewords
(30_encoding.md R61, R66, R74), and a word alone does not say its space. Notes/assumptions/10.md fixes how it is
chosen. -/

/-- The place in which a word of the opcode table is read, by its width and then by the first of these that fits. Up to 8
bits: a 3-bit command code stands on the command port; a whole codeword stands alone; an odd 4-bit word is the later
header HDR.D; a 5-bit word is the first header HDR.F; any other word begins with a codeword. Up to 16 bits: a
codeword. Up to 32: a RAWPAIR of the widest samples. Above: a VLPAIR with LSB fields of no bits. -/
def tableCtx (nbits w : Nat) : FetchCtx :=
  if 32 < nbits then .vlpair 0 0 0
  else if 16 < nbits then .rawpair 16
  else if 8 < nbits then .codeword
  else if w < 8 then .port
  else if w = prefixMatch (decodePrefix w).1 then .codeword
  else if w < 16 ∧ w % 2 = 1 then .header false false
  else if w < 32 then .header false true
  else .codeword

/-- The word as its place holds it: on the command port its three low bits with every parameter line at 0, in the stream
its bits, least significant first, and zeros up to the longest element. -/
def tableCode (c : FetchCtx) (w : Nat) : Code :=
  match c with
  | .port => .port (BitVec.ofNat 3 w) .zero
  | .header _ _ | .vlpair _ _ _ | .rawpair _ | .pad _ | .codeword => .bits (bitsOf Config.peekBits w)

/-- What the decoder reads from a word of the opcode table. -/
def decodeTableWord (nbits w : Nat) : Option Instr :=
  (decode (tableCtx nbits w) (tableCode (tableCtx nbits w) w)).toOption

end Sys2Proof
end

