-- ==== Sys2Proof/Machine/State.lean ====
section
/-! DEFINITION. The state of the machine: every register and memory of 10_state.md, the bit source, and the model's own
fields (`port`, `seq`, `result`, `freeCtr`, `hookState`), the ways a step can stop, and the state after reset. -/

namespace Sys2Proof.Machine

/-- The life-cycle state `st` (10_state.md R16). -/
inductive Status where
  | unconfigured
  | active
  | poisoned
deriving DecidableEq, Repr

/-- The cause register `err`: the six faults of 60_exceptions.md R190, or none. -/
inductive ErrCode where
  | none
  | unexpectedEndOfStream
  | parameterOutOfRange
  | notImplemented
  | invalidState
  | bitdepthDiffOutOfRange
  | peekWindowExceeded
deriving DecidableEq, Repr

/-- A window of three samples, `last_new[0..2]` or `last_old[0..2]` (10_state.md R11). -/
structure Window where
  w0 : Sample
  w1 : Sample
  w2 : Sample
deriving DecidableEq, Repr, Inhabited

/-- A DecodingContext (10_state.md R11). -/
structure Ctx where
  g : Nat
  lastNew : Window
  lastOld : Window
deriving DecidableEq, Repr, Inhabited

/-- The BlockParameters (10_state.md R12). -/
structure BlockParams where
  a : Nat
  b : Nat
  c : Nat
  d : Nat
  e : Nat
  f : Nat
deriving DecidableEq, Repr, Inhabited

/-- What the next step fetches. `command` between transactions; the others inside one: the element of that kind
at `pos` (10_state.md R14). DESIGN CHOICE, notes/assumptions/1.md. -/
inductive Seq where
  | command
  | header
  | pair
  | pad
  | codeword
deriving DecidableEq, Repr

/-- What the last command or element returned, beside `st` and `err` (70_reset_and_hazards.md R229).
DESIGN CHOICE, notes/assumptions/14.md. -/
inductive Result where
  /-- Completed with nothing to return. -/
  | done
  /-- The boolean of READ_NEXT (46_line_decoder.md R169). -/
  | lineComplete (b : Bool)
  /-- The words of LINE_A, LINE_B (R174, R175). -/
  | words (ws : List Sample)
  /-- The class and the size of a codeword (40_prefix_code.md R80). -/
  | codeword (cls size : Nat)
  /-- A fault was reported, see `err` (60_exceptions.md R196). -/
  | faulted
  /-- Refused in POISONED (60_exceptions.md R201). -/
  | refused
deriving DecidableEq, Repr

/-- What the host does, one after the other (70_reset_and_hazards.md R229). -/
inductive HostAction where
  /-- Issues a command: the code, and what the parameter lines carry (30_encoding.md R74). -/
  | command (cmd : BitVec 3) (arg : Parameters)
  /-- Between transactions, presents a stream and a position in it (20_memory.md R47). -/
  | present (bits : List Bool) (pos : Nat)
deriving DecidableEq, Repr

/-- The state. The stream is `S`, its length is `L`. -/
structure State where
  /-- `st` (10_state.md R16). -/
  st : Status
  /-- `err` (R16). -/
  err : ErrCode
  /-- The configuration registers (R17). -/
  params : Parameters
  /-- The DecodingContext of component A (R11). -/
  ctxA : Ctx
  /-- The DecodingContext of component B (R11). -/
  ctxB : Ctx
  /-- `a .. f` (R12). -/
  bp : BlockParams
  /-- `bitdepth_diff` (R13). -/
  bitdepthDiff : Nat
  /-- `decoding_mode`, true = raw (R15). -/
  decodingMode : Bool
  /-- `current_line_index` (R18). -/
  currentLineIndex : U32
  /-- `current_block_index` (R14). -/
  currentBlockIndex : Nat
  /-- `read_values_count` (R14). -/
  readValuesCount : Nat
  /-- `i`, the position inside the current block (R14). -/
  i : Nat
  /-- `noise_level` (R19). -/
  noiseLevel : I32
  /-- `noise_less_than_distance_count` (R19). -/
  noiseCount : Nat
  /-- `noise_levels[0..7]` (R20). -/
  noiseLevels : History
  /-- `line_a` (R21). -/
  lineA : BlockLine
  /-- `line_bc` (R21). -/
  lineBC : BlockLine
  /-- `line_a_prev` (R21). -/
  lineAPrev : BlockLine
  /-- `line_b_prev` (R21). -/
  lineBPrev : BlockLine
  /-- `line_c_prev` (R21). -/
  lineCPrev : BlockLine
  /-- `S`, the bits BITSRC presents (R22). -/
  stream : List Bool
  /-- `pos`, BITSRC's cursor (R14). -/
  pos : Nat
  /-- The host's pending actions. -/
  port : List HostAction
  /-- What the next step fetches. -/
  seq : Seq
  /-- What the last command or element returned. -/
  result : Result
  /-- Counts the uses of free values (notes/assumptions/21.md). -/
  freeCtr : Nat
  /-- The state the HOOKS keep for themselves, coded as a number (R26; notes/assumptions/21.md). -/
  hookState : Nat
deriving DecidableEq, Repr

/-- Why the machine stops with a fault of the model's own. The faults of the spec are next states (60_exceptions.md R196). -/
inductive Fault where
  /-- A load or store at a position or header entry the buffer does not have (20_memory.md R50). Raised by the sample
  and header accesses of `VLPAIR`, `RAWPAIR`, the headers, LINE_A and LINE_B, in states that no run reaches. Safe. -/
  | bufferPositionDoesNotExist
deriving DecidableEq, Repr

/-- Why a step is refused. -/
inductive Refusal where
  /-- An instruction without a meaning. Raised by no arm of `exec`. Safe. -/
  | notModelled (mnemonic : String)
  /-- FINALIZE_LINE from line index 2^32 - 1, which "the model refuses" (10_state.md R18,
  93_implementation_defined.md U9). Safe. -/
  | lineIndexOverflow
  /-- The host presents a position beyond the end of its stream, against `0 <= pos <= L` (20_memory.md R40). Raised by
  the step. Safe. -/
  | streamPositionBeyondEnd
  /-- What was fetched is nothing its place can hold. Raised by the step, which never fetches so. Safe. -/
  | undecodable (why : DecodeError)
deriving DecidableEq, Repr

/-- Why an operation stops. -/
inductive Stop where
  /-- `raise` of a fault of the spec (60_exceptions.md R196). -/
  | raised (e : ErrCode)
  /-- A fault of the model. -/
  | fault (f : Fault)
  /-- A refusal. -/
  | refused (r : Refusal)
deriving DecidableEq, Repr

/-- The outcome of an operation inside a command. -/
abbrev Res (α : Type) := Except Stop α

/-- The outcome of an instruction. -/
abbrev Out := Host.Outcome State Fault Refusal

/-- A window of one value (10_state.md R25). -/
def Window.const (v : Sample) : Window := { w0 := v, w1 := v, w2 := v }

/-- A buffer with every sample at `fill` and every header entry at 0 (10_state.md R25). -/
def blankLine (blocks : Nat) (fill : Sample) : BlockLine :=
  { blocks := blocks, fill := fill, samples := [], headers := [] }

/-- Power-on (70_reset_and_hazards.md R220): UNCONFIGURED, `err = 0`. Every other register is unspecified there and holds the
value notes/assumptions/2.md names. -/
def State.reset : State :=
  { st := .unconfigured
    err := .none
    params := .zero
    ctxA := { g := 0, lastNew := .const 0, lastOld := .const 0 }
    ctxB := { g := 0, lastNew := .const 0, lastOld := .const 0 }
    bp := { a := 0, b := 0, c := 0, d := 0, e := 0, f := 0 }
    bitdepthDiff := 0
    decodingMode := false
    currentLineIndex := 0
    currentBlockIndex := 0
    readValuesCount := 0
    i := 0
    noiseLevel := 0
    noiseCount := 0
    noiseLevels := Vector.replicate 8 0
    lineA := blankLine 0 0
    lineBC := blankLine 0 0
    lineAPrev := blankLine 0 0
    lineBPrev := blankLine 0 0
    lineCPrev := blankLine 0 0
    stream := []
    pos := 0
    port := []
    seq := .command
    result := .done
    freeCtr := 0
    hookState := 0 }

/-! ### Updates

The updates the operations use, each named once; `Laws/State.lean` has one lemma per field of each. -/

/-- `pos <- p`. -/
def State.atPos (s : State) (p : Nat) : State := { s with pos := p }

/-- `bitdepth_diff <- d`. -/
def State.withDiff (s : State) (d : Nat) : State := { s with bitdepthDiff := d }

/-- `decoding_mode <- m`. -/
def State.withMode (s : State) (m : Bool) : State := { s with decodingMode := m }

/-- Both current buffers. -/
def State.withLines (s : State) (a bc : BlockLine) : State := { s with lineA := a, lineBC := bc }

/-- Both contexts. -/
def State.withCtx (s : State) (a b : Ctx) : State := { s with ctxA := a, ctxB := b }

/-- `noise_less_than_distance_count <- n`. -/
def State.withNoiseCount (s : State) (n : Nat) : State := { s with noiseCount := n }

/-- `read_values_count <- n`. -/
def State.withReadCount (s : State) (n : Nat) : State := { s with readValuesCount := n }

/-- `i <- n`. -/
def State.withIndex (s : State) (n : Nat) : State := { s with i := n }

/-- `current_block_index <- n`. -/
def State.withBlock (s : State) (n : Nat) : State := { s with currentBlockIndex := n }

/-- `a .. f <- bp`. -/
def State.withBlockParams (s : State) (bp : BlockParams) : State := { s with bp := bp }

/-- What the next step fetches. -/
def State.withSeq (s : State) (q : Seq) : State := { s with seq := q }

/-- What is returned. -/
def State.withResult (s : State) (r : Result) : State := { s with result := r }

/-- The host's pending actions. -/
def State.withPort (s : State) (p : List HostAction) : State := { s with port := p }

/-- BITSRC's stream and cursor. -/
def State.withStream (s : State) (bits : List Bool) (p : Nat) : State := { s with stream := bits, pos := p }

end Sys2Proof.Machine
end

