-- ==== Sys2Proof/Machine/Ops.lean ====
section
/-! DEFINITION. The named operations: line-buffer memory (20_memory.md R49 to R53), the BitSource port (R42 to R46), fault entry
(60_exceptions.md R196), and how an operation's outcome becomes an instruction's. -/

namespace Sys2Proof.Machine

/-! ### The values on the response port -/

/-- The value of `st` on the response port (10_state.md R16). -/
def Status.code : Status → Nat
  | .unconfigured => 0
  | .active => 1
  | .poisoned => 2

/-- The numeric cause codes (10_state.md R16, 60_exceptions.md R190). -/
def ErrCode.code : ErrCode → Nat
  | .none => 0
  | .unexpectedEndOfStream => 1
  | .parameterOutOfRange => 2
  | .notImplemented => 3
  | .invalidState => 4
  | .bitdepthDiffOutOfRange => 5
  | .peekWindowExceeded => 6

/-! ### Sparse memory in canonical form -/

/-- What the address `a` holds: the listed value, else `dflt`. -/
def readCell {α : Type} (dflt : α) : List (Nat × α) → Nat → α
  | [], _ => dflt
  | (k, v) :: m, a => if k = a then v else readCell dflt m a

/-- The address `a` comes to hold `v`; a value equal to `dflt` is not listed. -/
def writeCell {α : Type} [DecidableEq α] (dflt : α) : List (Nat × α) → Nat → α → List (Nat × α)
  | [], a, v => if v = dflt then [] else [(a, v)]
  | (k, x) :: m, a, v =>
    if a < k then (if v = dflt then (k, x) :: m else (a, v) :: (k, x) :: m)
    else if a = k then (if v = dflt then m else (a, v) :: m)
    else (k, x) :: writeCell dflt m a v

/-- The addresses `lo .. lo + n - 1` with the values of `f`, in canonical form. -/
def tabulate {α : Type} [DecidableEq α] (dflt : α) (f : Nat → α) : Nat → Nat → List (Nat × α)
  | _, 0 => []
  | lo, n + 1 => if f lo = dflt then tabulate dflt f (lo + 1) n else (lo, f lo) :: tabulate dflt f (lo + 1) n

/-- The canonical form: addresses strictly rising from `lo`, all below `bound`, no listed value equal to `dflt`. -/
def cellsOk {α : Type} [DecidableEq α] (dflt : α) (bound : Nat) : Nat → List (Nat × α) → Bool
  | _, [] => true
  | lo, (k, v) :: m => lo ≤ k && k < bound && v ≠ dflt && cellsOk dflt bound (k + 1) m

end Sys2Proof.Machine

namespace Sys2Proof

/-- The number of samples of a buffer (10_state.md R21). -/
def BlockLine.size (b : BlockLine) : Nat := b.blocks * Config.blockSize

/-- The sample with flattened index `n` (46_line_decoder.md R174). -/
def BlockLine.sampleAt (b : BlockLine) (n : Nat) : Sample := Machine.readCell b.fill b.samples n

/-- The header entry of block `blk` (10_state.md R21). -/
def BlockLine.headerAt (b : BlockLine) (blk : Nat) : HdrVal := Machine.readCell 0 b.headers blk

/-- The buffer is in canonical form and lists only positions it has. -/
def BlockLine.wf (b : BlockLine) : Bool :=
  Machine.cellsOk b.fill b.size 0 b.samples && Machine.cellsOk 0 b.blocks 0 b.headers

end Sys2Proof

namespace Sys2Proof.Machine

/-- The flattened index of position `(blk, i)` (46_line_decoder.md R174). -/
def sampleKey (blk i : Nat) : Nat := blk * Config.blockSize + i

/-- `MemRead(buf[blk][i], 16)` (20_memory.md R50). A position the buffer does not have is a fault of the model. -/
def memRead (b : BlockLine) (blk i : Nat) : Res Sample :=
  if blk < b.blocks ∧ i < Config.blockSize then .ok (b.sampleAt (sampleKey blk i))
  else .error (.fault .bufferPositionDoesNotExist)

/-- `MemWrite(buf[blk][i], 16, v)` (20_memory.md R51). -/
def memWrite (b : BlockLine) (blk i : Nat) (v : Sample) : Res BlockLine :=
  if blk < b.blocks ∧ i < Config.blockSize then
    .ok { b with samples := writeCell b.fill b.samples (sampleKey blk i) v }
  else .error (.fault .bufferPositionDoesNotExist)

/-- `HdrWrite(buf, blk, v)` (20_memory.md R52). -/
def hdrWrite (b : BlockLine) (blk : Nat) (v : HdrVal) : Res BlockLine :=
  if blk < b.blocks then .ok { b with headers := writeCell 0 b.headers blk v }
  else .error (.fault .bufferPositionDoesNotExist)

/-- The first `n` samples in flattened order (46_line_decoder.md R174). -/
def snapshot (b : BlockLine) (n : Nat) : Res (List Sample) :=
  if n ≤ b.size then .ok ((List.range n).map b.sampleAt) else .error (.fault .bufferPositionDoesNotExist)

/-- A buffer of the shape of `shape` with the content of `b`, in canonical form: how a hook's result stands in the buffer
it was given (46_line_decoder.md R173). -/
def settleAs (shape b : BlockLine) : BlockLine :=
  { blocks := shape.blocks
    fill := shape.fill
    samples := tabulate shape.fill b.sampleAt 0 shape.size
    headers := tabulate 0 b.headerAt 0 shape.blocks }

/-- The memory's canonical form: it holds for each of the five buffers. -/
def State.memoryWf (s : State) : Bool :=
  s.lineA.wf && s.lineBC.wf && s.lineAPrev.wf && s.lineBPrev.wf && s.lineCPrev.wf

/-! ### The BitSource port -/

/-- `L`. -/
def State.streamLength (s : State) : Nat := s.stream.length

/-- The stream bits from `pos` on. -/
def upcoming (s : State) : List Bool := s.stream.drop s.pos

/-- `Peek(n)` (20_memory.md R42): bits beyond `L` count as 0; nothing changes. -/
def peek (n : Nat) (s : State) : Nat := valueOf ((upcoming s).take n)

/-- `Consume(n)` (R43). -/
def consume (n : Nat) (s : State) : Res State :=
  if s.pos + n > s.streamLength then .error (.raised .unexpectedEndOfStream) else .ok (s.atPos (s.pos + n))

/-- `ceil(pos / B) * B` (R46). -/
def alignUp (B p : Nat) : Nat := (p + B - 1) / B * B

/-- `AlignTo(B)` (R46). -/
def alignTo (B : Nat) (s : State) : Res State :=
  if alignUp B s.pos > s.streamLength then .error (.raised .unexpectedEndOfStream)
  else .ok (s.atPos (alignUp B s.pos))

/-! ### Fault entry (60_exceptions.md R196) -/

/-- Parameters nothing constrains (notes/assumptions/4.md). -/
def freeParams (k : Nat) : Parameters :=
  { defaultPixValue := Config.freeSample k 0
    maxAllowedPixelValue := Config.freeWord k 0
    maxAllowedRawValue := Config.freeWord k 1
    maxValuesCount := Config.freeWord k 2
    blocksCount := Config.freeWord k 3
    stride := Config.freeBool k 0
    alignMode := Config.freeWord k 4
    lossless := Config.freeBool k 1
    bitdepthReal := Config.freeWord k 5
    bayerPattern := Config.freeWord k 6
    noiseLevel1 := Config.freeWord k 7
    noiseLevel2 := Config.freeWord k 8
    noiseLevelDistance := Config.freeWord k 9 }

/-- A window nothing constrains. -/
def freeWindow (k slot : Nat) : Window :=
  { w0 := Config.freeSample k slot, w1 := Config.freeSample k (slot + 1), w2 := Config.freeSample k (slot + 2) }

/-- BlockParameters nothing constrains (notes/assumptions/4.md, 5.md). -/
def freeBlockParams (k : Nat) : BlockParams :=
  { a := Config.freeNat k 0, b := Config.freeNat k 1, c := Config.freeNat k 2
    d := Config.freeNat k 3, e := Config.freeNat k 4, f := Config.freeNat k 5 }

/-- A buffer nothing constrains, in canonical form. -/
def freeBuffer (k slot : Nat) : BlockLine := settleAs (Config.freeLine k slot) (Config.freeLine k slot)

/-- Every register and buffer of the instance other than `st` and `err`, and `pos`, unspecified (60_exceptions.md R196,
93_implementation_defined.md U6): free values of the use `k`. What stays is what R40 and R14 fix: the stream is BITSRC's
and `pos` is not beyond its end. -/
def unspecified (k : Nat) (s : State) : State :=
  { s with
    params := freeParams k
    ctxA := { g := Config.freeNat k 6, lastNew := freeWindow k 1, lastOld := freeWindow k 4 }
    ctxB := { g := Config.freeNat k 7, lastNew := freeWindow k 7, lastOld := freeWindow k 10 }
    bp := freeBlockParams k
    bitdepthDiff := Config.freeNat k 8
    decodingMode := Config.freeBool k 2
    currentLineIndex := Config.freeWord k 10
    currentBlockIndex := Config.freeNat k 9
    readValuesCount := Config.freeNat k 10
    i := Config.freeNat k 11
    noiseLevel := Config.freeWord k 11
    noiseCount := Config.freeNat k 12
    noiseLevels := Config.freeHistory k
    lineA := freeBuffer k 0
    lineBC := freeBuffer k 1
    lineAPrev := freeBuffer k 2
    lineBPrev := freeBuffer k 3
    lineCPrev := freeBuffer k 4
    pos := Config.freeNat k 13 % (s.streamLength + 1)
    freeCtr := k + 1 }

/-- `raise <Fault>` (60_exceptions.md R196): the instance is poisoned, `err` takes the code unless it was poisoned already,
the transaction is over and the response reports the fault. -/
def raise (e : ErrCode) (s : State) : State :=
  { unspecified s.freeCtr s with
    st := .poisoned
    err := if s.st = .poisoned then s.err else e
    seq := .command
    result := .faulted }

/-- The outcome of an instruction whose operations began in `s`: a fault of the spec is taken from there, since nothing the
command did before it can be relied on (60_exceptions.md R196). -/
def finish (s : State) : Res State → Out
  | .ok t => .next t
  | .error (.raised e) => .next (raise e s)
  | .error (.fault f) => .fault f
  | .error (.refused r) => .refused r

/-- A command other than CONSTRUCT: refused in POISONED with nothing changed (60_exceptions.md R201), InvalidState when
the state does not allow it (R194), in that order (R199). -/
def command (s : State) (allowed : Bool) (body : Res State) : Out :=
  if s.st = .poisoned then .next (s.withResult .refused)
  else if allowed then finish s body
  else .next (raise .invalidState s)

/-- BITSRC presents another stream between transactions (20_memory.md R47); the cursor is not beyond its end (R40). -/
def presentStream (bits : List Bool) (p : Nat) (s : State) : Out :=
  if p ≤ bits.length then .next (s.withStream bits p) else .refused .streamPositionBeyondEnd

end Sys2Proof.Machine
end

