-- ==== Sys2Proof/Machine/Operands.lean ====
section
/-! DEFINITION. What the operands of the elements mean: the Parameters as integers and their legal ranges (00_scope.md R6), the LSB
widths (42_block_vl.md R112), values and residuals (R115, R117), the header delta (46_line_decoder.md R166). -/

namespace Sys2Proof

/-- `max_values_count` as a count. -/
def Parameters.valuesPerLine (P : Parameters) : Nat := P.maxValuesCount.toInt.toNat

/-- `blocks_count` as a count. -/
def Parameters.blocks (P : Parameters) : Nat := P.blocksCount.toInt.toNat

end Sys2Proof

namespace Sys2Proof.Machine

/-- `clamp(x, lo, hi)` (00_scope.md R8). -/
def clamp (x lo hi : Int) : Int := if x < lo then lo else if x > hi then hi else x

/-- The conditions CONSTRUCT tests: the legal ranges of 00_scope.md R6, as 70_reset_and_hazards.md R221 lists them. -/
def legalParams (P : Parameters) : Bool :=
  (P.defaultPixValue.toNat : Int) ≤ P.maxAllowedPixelValue.toInt
    && 0 ≤ P.maxAllowedPixelValue.toInt && P.maxAllowedPixelValue.toInt ≤ 65535
    && 4 ≤ P.maxAllowedRawValue.toInt
    && 1 ≤ P.blocksCount.toInt
    && 1 ≤ P.maxValuesCount.toInt
    && P.maxValuesCount.toInt ≤ P.blocksCount.toInt * Config.blockSize
    && (P.alignMode.toInt = 0 || P.alignMode.toInt = 1)
    && 1 ≤ P.bitdepthReal.toInt && P.bitdepthReal.toInt ≤ 16
    && P.bayerPattern.toNat ≤ 3

/-- `K(x)` (42_block_vl.md R112): the smallest `i` in 0..6 with `x >> (i+1) == 0`, and 6 when there is none. -/
def lsbK (x : Nat) : Nat :=
  if x >>> 1 = 0 then 0
  else if x >>> 2 = 0 then 1
  else if x >>> 3 = 0 then 2
  else if x >>> 4 = 0 then 3
  else if x >>> 5 = 0 then 4
  else if x >>> 6 = 0 then 5
  else Config.kCap

/-- The value of one sample from its class and LSB field of width `l` (42_block_vl.md R115). -/
def sampleValue (c : Cls) (l lsb : Nat) : Nat :=
  if c = Config.escapeClass then lsb + 1 else (c.val <<< l) ||| lsb

/-- The signed residual of a value, the map 0, -1, 1, -2, 2, … (42_block_vl.md R117). -/
def residualOf (value : Nat) : Int :=
  if value &&& 1 = 1 then -(((value + 1) >>> 1 : Nat) : Int) else (((value + 1) >>> 1 : Nat) : Int)

/-- `DELTA = [-2, -1, +1, +2]` (30_encoding.md R65, 46_line_decoder.md R166). -/
def headerDelta (code : BitVec 2) : Int :=
  match code.toNat with
  | 0 => -2
  | 1 => -1
  | 2 => 1
  | _ => 2

/-- The register value of a sample, zero-extended from 16 bits (20_memory.md R51). -/
def sampleOf (v : Nat) : Sample := BitVec.ofNat 16 v

/-- The boundary of AlignTo for an `align_mode` (46_line_decoder.md R170). -/
def padBoundary (alignMode : I32) : Nat := if alignMode.toInt = 1 then 256 else 128

/-- The number of padding bits at a position (30_encoding.md R71). -/
def padBits (alignMode : I32) (p : Nat) : Nat := alignUp (padBoundary alignMode) p - p

end Sys2Proof.Machine
end

