-- ==== Sys2Proof/Machine/Flags.lean ====
section
/-! DEFINITION. The computed predicates of 10_state.md R15 and the noise tick. The one stored flag, `decoding_mode`, is written by the
headers (46_line_decoder.md R168). -/

namespace Sys2Proof.Machine

/-- `is_upper_field_line` (46_line_decoder.md R160). -/
def isUpperFieldLine (s : State) : Bool := s.currentLineIndex &&& 1 == 0

/-- `is_needed_field()` (46_line_decoder.md R161); its local `a` is the parity that is needed. -/
def isNeededField (s : State) : Bool :=
  let a : U32 := if s.params.bayerPattern = 3 then 1 else if s.params.bayerPattern = 0 then 1 else 0
  if s.currentLineIndex &&& 1 ≠ a then false else true

/-- `line_complete` (10_state.md R15). -/
def lineComplete (s : State) : Bool := s.currentBlockIndex == s.params.blocks

/-- READ_NEXT and READ_LINE are allowed (60_exceptions.md R194). -/
def readAllowed (s : State) : Bool := s.st == .active && s.currentBlockIndex < s.params.blocks

/-- FINALIZE_LINE is allowed (60_exceptions.md R194). -/
def finalizeAllowed (s : State) : Bool := s.st == .active && lineComplete s

/-- The distance of two samples (45_noise_estimator.md R150). -/
def distance (x y : Sample) : Nat := ((x.toNat : Int) - (y.toNat : Int)).natAbs

/-- The pixel is quiet: the least of the three distances of component A is below `noise_level_distance`
(45_noise_estimator.md R150, R151). -/
def quietPixel (P : Parameters) (A : Ctx) : Bool :=
  let l1 := distance A.lastNew.w0 A.lastNew.w1
  let l2 := distance A.lastOld.w1 A.lastNew.w0
  let l3 := distance A.lastOld.w0 A.lastNew.w0
  min l1 (min l2 l3) < P.noiseLevelDistance.toNat

/-- `NoiseTick()` (45_noise_estimator.md R150). -/
def noiseTick (s : State) : State :=
  if quietPixel s.params s.ctxA then s.withNoiseCount (s.noiseCount + 1) else s

end Sys2Proof.Machine
end

