-- ==== Sys2Proof/Machine/Headers.lean ====
section
/-! DEFINITION. The block headers (46_line_decoder.md R162 to R168). -/

namespace Sys2Proof.Machine

/-- `CheckRange()` (46_line_decoder.md R167), for the updated `bitdepth_diff`. -/
def checkRange (diff : Int) (s : State) : Res State :=
  if diff < 0 ∨ diff > 15 ∨ diff > s.params.bitdepthReal.toInt then .error (.raised .bitdepthDiffOutOfRange)
  else .ok (s.withDiff diff.toNat)

/-- The common tail: the mode flag, and the record of `bitdepth_diff` in both current buffers (R168). -/
def headerTail (m : Bool) (s : State) : Res State := do
  let s ← consume 1 s
  let s := s.withMode m
  let v : HdrVal := BitVec.ofNat 4 s.bitdepthDiff
  let a ← hdrWrite s.lineA s.currentBlockIndex v
  let bc ← hdrWrite s.lineBC s.currentBlockIndex v
  .ok (s.withLines a bc)

/-- `HDR.L m` (R163). -/
def hdrL (m : Bool) (s : State) : Res State := headerTail m (s.withDiff 0)

/-- `HDR.F d, m` (R164). -/
def hdrF (d : BitVec 4) (m : Bool) (s : State) : Res State := do
  let s ← consume 4 s
  let s ← checkRange d.toNat s
  headerTail m s

/-- `HDR.K m` (R165). -/
def hdrK (m : Bool) (s : State) : Res State := do
  let s ← consume 1 s
  headerTail m s

/-- `HDR.D code, m` (R166). -/
def hdrD (code : BitVec 2) (m : Bool) (s : State) : Res State := do
  let s ← consume 1 s
  let s ← consume 2 s
  let s ← checkRange (s.bitdepthDiff + headerDelta code) s
  headerTail m s

/-- `ReadHeader` (R162): the form is decoded from the state and the bits ahead. -/
def readHeader (s : State) : Res State :=
  match decodeHeader s.params.lossless (s.readValuesCount == 0) (peek Config.peekBits s) with
  | .L m => hdrL m s
  | .F d m => hdrF d m s
  | .K m => hdrK m s
  | .D code m => hdrD code m s

/-- The instruction `HDR.L`. -/
def execHdrL (m : Bool) (s : State) : Out := finish s (hdrL m s)

/-- The instruction `HDR.F`. -/
def execHdrF (d : BitVec 4) (m : Bool) (s : State) : Out := finish s (hdrF d m s)

/-- The instruction `HDR.K`. -/
def execHdrK (m : Bool) (s : State) : Out := finish s (hdrK m s)

/-- The instruction `HDR.D`. -/
def execHdrD (code : BitVec 2) (m : Bool) (s : State) : Out := finish s (hdrD code m s)

end Sys2Proof.Machine
end

