-- ==== Sys2Proof/Machine/Predictor.lean ====
section
/-! DEFINITION. Predictor, unmod, the update of `g`, and the per-block parameter deriver (44_predictor_unmod.md R140 to R148,
42_block_vl.md R120, 41_block_parameters.md R100 to R106). All on mathematical integers (R8, R147). -/

namespace Sys2Proof.Machine

/-- `fixPrediction(p1, p2, value)` (44_predictor_unmod.md R140). -/
def fixPrediction (p1 p2 value : Int) : Int :=
  let lo := min p1 p2
  let hi := max p1 p2
  if hi ≤ value then lo
  else if lo < value then lo + hi - value
  else hi

/-- `unmod(value, step, safe_offset, range, step_count)` (44_predictor_unmod.md R143): one fold, never two. -/
def unmod (value step safeOffset range stepCount : Int) : Int :=
  if value < -range then value + stepCount * step
  else if value > range + safeOffset then value - stepCount * step
  else value

/-- The predicted offset: left, above, above-left in this order (42_block_vl.md R116, 44_predictor_unmod.md R141). -/
def prediction (c : Ctx) : Int :=
  fixPrediction c.lastNew.w1.toNat c.lastOld.w0.toNat c.lastOld.w1.toNat

/-- The reconstructed pixel (42_block_vl.md R118, 44_predictor_unmod.md R144, R146), `M` the `max_allowed_pixel_value`. -/
def reconstruct (bp : BlockParams) (M : Int) (value : Nat) (c : Ctx) : Int :=
  clamp (unmod (bp.b * residualOf value + prediction c) bp.d M bp.c bp.b) 0 M

/-- The new `g` (42_block_vl.md R120): `R` is `max_allowed_raw_value`, `k` the component's plain LSB width. -/
def updateG (value k g : Nat) (R : Int) : Nat :=
  let v : Nat := if value >>> k > Config.maxClassPlain then value - 1 else value
  let v : Nat := (clamp v 0 R).toNat
  (2 * v + 2 * g + 2) / 4

/-- One component of a VL pair: rules R115 to R120 of 42_block_vl.md. -/
def vlSample (P : Parameters) (bp : BlockParams) (cls : Cls) (l lsb k : Nat) (c : Ctx) : Ctx :=
  let value := sampleValue cls l lsb
  let pix := reconstruct bp P.maxAllowedPixelValue.toInt value c
  { g := updateG value k c.g P.maxAllowedRawValue.toInt
    lastNew := { c.lastNew with w0 := sampleOf pix.toNat }
    lastOld := c.lastOld }

/-- `Shift(X)` on a window: right by one, slot 0 keeps its value (42_block_vl.md R122). -/
def shiftWindow (w : Window) : Window := { w0 := w.w0, w1 := w.w0, w2 := w.w1 }

/-- `Shift(X)` (42_block_vl.md R122). -/
def shiftCtx (c : Ctx) : Ctx := { c with lastNew := shiftWindow c.lastNew, lastOld := shiftWindow c.lastOld }

/-- `ceil(log2(d))` (41_block_parameters.md R104): the least `e` with `2^e >= d`, for `d >= 1`. -/
def ceilLog2 (d : Nat) : Nat := if d ≤ 1 then 0 else Nat.log2 (d - 1) + 1

/-- The bundle `(a, b, c, d, e, f)` (41_block_parameters.md R100 to R105). -/
def blockParams (P : Parameters) (diff : Nat) : BlockParams :=
  let a := diff
  let b := 1 <<< a
  let c := (max (0 : Int) (((b >>> 1 : Nat) : Int) - 1)).toNat
  let d := (2 * c + P.maxAllowedPixelValue.toInt.toNat) >>> a + 1
  { a := a, b := b, c := c, d := d, e := ceilLog2 d, f := (P.bitdepthReal.toInt - a).toNat }

/-- `DeriveParams` (41_block_parameters.md R106). -/
def deriveParams (s : State) : State := s.withBlockParams (blockParams s.params s.bitdepthDiff)

end Sys2Proof.Machine
end

