-- ==== Sys2Proof/Machine/Pairs.lean ====
section
/-! DEFINITION. The pixel pairs: VLPAIR (42_block_vl.md) and RAWPAIR (43_block_raw.md). Both decode the pair at block
`current_block_index`, position `i`. -/

namespace Sys2Proof.Machine

/-- The previous-line buffer of component B (46_line_decoder.md R160). -/
def prevB (s : State) : BlockLine := if isUpperFieldLine s then s.lineBPrev else s.lineCPrev

/-- `last_old[0] <- v`. -/
def setOld0 (c : Ctx) (v : Sample) : Ctx := { c with lastOld := { c.lastOld with w0 := v } }

/-- `last_new[0] <- v`. -/
def setNew0 (c : Ctx) (v : Sample) : Ctx := { c with lastNew := { c.lastNew with w0 := v } }

/-- `LoadOld(blk, i)` (42_block_vl.md R111). -/
def loadOld (s : State) : Res State :=
  if s.currentLineIndex.toNat > 0 then do
    let va ← memRead s.lineAPrev s.currentBlockIndex s.i
    let vb ← memRead (prevB s) s.currentBlockIndex s.i
    .ok (s.withCtx (setOld0 s.ctxA va) (setOld0 s.ctxB vb))
  else
    .ok (s.withCtx (setOld0 s.ctxA s.params.defaultPixValue) (setOld0 s.ctxB s.params.defaultPixValue))

/-- Both contexts shifted (42_block_vl.md R122). -/
def shiftBoth (s : State) : State := s.withCtx (shiftCtx s.ctxA) (shiftCtx s.ctxB)

/-- The two samples go to `line_a` and `line_bc`, and the pair is counted (42_block_vl.md R123, 43_block_raw.md R130). -/
def storePair (pa pb : Sample) (s : State) : Res State := do
  let a ← memWrite s.lineA s.currentBlockIndex s.i pa
  let bc ← memWrite s.lineBC s.currentBlockIndex s.i pb
  .ok ((s.withLines a bc).withReadCount (s.readValuesCount + 1))

/-- The length of a VL pair in the present state: both prefixes and both LSB fields (30_encoding.md R67). -/
def vlLength (ca cb : Cls) (s : State) : Nat :=
  prefixSize ca + prefixSize cb + lsbWidth ca (lsbK s.ctxA.g) s.bp.f + lsbWidth cb (lsbK s.ctxB.g) s.bp.f

/-- Both components of a VL pair (42_block_vl.md R115 to R120). The two do not read each other's registers (R110). -/
def vlSamples (ca : Cls) (lsa : Nat) (cb : Cls) (lsb : Nat) (s : State) : State :=
  let ka := lsbK s.ctxA.g
  let kb := lsbK s.ctxB.g
  s.withCtx (vlSample s.params s.bp ca (lsbWidth ca ka s.bp.f) lsa ka s.ctxA)
    (vlSample s.params s.bp cb (lsbWidth cb kb s.bp.f) lsb kb s.ctxB)

/-- Consume of a whole pair that was decoded from one peek window (42_block_vl.md R119): one wider than `PEEK_BITS` raises
PeekWindowExceeded (60_exceptions.md R197). -/
def consumeWindow (n : Nat) (s : State) : Res State :=
  if n > Config.peekBits then .error (.raised .peekWindowExceeded) else consume n s

/-- `VLPAIR(blk, i)` (42_block_vl.md R110). -/
def vlpair (ca : Cls) (lsa : Nat) (cb : Cls) (lsb : Nat) (s : State) : Res State := do
  let s ← loadOld s
  let s ← consumeWindow (vlLength ca cb s) s
  let s := noiseTick (vlSamples ca lsa cb lsb s)
  storePair s.ctxA.lastNew.w0 s.ctxB.lastNew.w0 (shiftBoth s)

/-- `RAWPAIR(blk, i)` (43_block_raw.md R130), with the B-slot restore (R132). -/
def rawpair (v1 v2 : Nat) (s : State) : Res State := do
  let s ← loadOld s
  let s ← consume s.bp.f s
  let s ← consume s.bp.f s
  let old := s.ctxB.lastNew.w0
  let p1 := sampleOf (v1 <<< s.bp.a)
  let p2 := sampleOf (v2 <<< s.bp.a)
  let s := shiftBoth (noiseTick (s.withCtx (setNew0 s.ctxA p1) (setNew0 s.ctxB p2)))
  let s ← storePair p1 p2 s
  .ok (s.withCtx s.ctxA (setNew0 s.ctxB old))

/-- The instruction `VLPAIR`. -/
def execVlpair (ca : Cls) (lsa : Nat) (cb : Cls) (lsb : Nat) (s : State) : Out := finish s (vlpair ca lsa cb lsb s)

/-- The instruction `RAWPAIR`. -/
def execRawpair (v1 v2 : Nat) (s : State) : Out := finish s (rawpair v1 v2 s)

end Sys2Proof.Machine
end

