-- ==== Sys2Proof/Machine/Blocks.lean ====
section
/-! DEFINITION. Blocks and lines: the padding element (46_line_decoder.md R170), the block bodies (42_block_vl.md R110,
43_block_raw.md R134), READ_NEXT (46_line_decoder.md R169) and READ_LINE (R171). -/

namespace Sys2Proof.Machine

/-- `PAD` (46_line_decoder.md R170). -/
def pad (s : State) : Res State := alignTo (padBoundary s.params.alignMode) s

/-- The pair that stands at `pos`, in the block's mode (42_block_vl.md R110, 43_block_raw.md R130). -/
def nextPair (s : State) : Res State :=
  if s.decodingMode then
    let v := decodeRawpair s.bp.f (peek Config.peekBits s)
    rawpair v.1 v.2 s
  else
    let p := decodeVlpair (lsbK s.ctxA.g) (lsbK s.ctxB.g) s.bp.f (peek Config.peekBits s)
    vlpair p.ca p.lsa p.cb p.lsb s

/-- The block body goes on (42_block_vl.md R110, 43_block_raw.md R134). -/
def morePairs (s : State) : Bool := s.i < Config.blockSize && s.readValuesCount < s.params.valuesPerLine

/-- The loop of the block body; `n` bounds its rounds (`BLOCK_SIZE` is enough, since each adds 1 to `i`). -/
def blockBody : Nat → State → Res State
  | 0, s => .ok s
  | n + 1, s =>
    if morePairs s then do
      let s ← nextPair s
      blockBody n (s.withIndex (s.i + 1))
    else .ok s

/-- The block begins: its parameters are derived and `i` is 0 (46_line_decoder.md R169). -/
def enterBlock (s : State) : State := (deriveParams s).withIndex 0

/-- The block is counted; `i` is not state between transactions (10_state.md R14). -/
def leaveBlock (s : State) : State := (s.withBlock (s.currentBlockIndex + 1)).withIndex 0

/-- The padding follows the last block of a line with `stride` (46_line_decoder.md R169, R170). -/
def padDue (s : State) : Bool := lineComplete s && s.params.stride

/-- The padding, where it is due. -/
def padLine (s : State) : Res State := if padDue s then pad s else .ok s

/-- READ_NEXT returns whether the line is complete. -/
def returnComplete (s : State) : State := s.withResult (.lineComplete (lineComplete s))

/-- The body of READ_NEXT (46_line_decoder.md R169). -/
def readBlock (s : State) : Res State := do
  let s ← readHeader s
  let s ← blockBody Config.blockSize (enterBlock s)
  let s ← padLine (leaveBlock s)
  .ok (returnComplete s)

/-- READ_NEXT with its legality (46_line_decoder.md R169). -/
def readNext (s : State) : Res State :=
  if readAllowed s then readBlock s else .error (.raised .invalidState)

/-- `repeat r <- READ_NEXT until r` (46_line_decoder.md R171): one READ_NEXT and at most `n` more. -/
def readLineLoop : Nat → State → Res State
  | 0, s => readNext s
  | n + 1, s => do
    let s ← readNext s
    if lineComplete s then .ok s else readLineLoop n s

/-- READ_LINE (46_line_decoder.md R171): the blocks left after the next one bound the repetition. It returns no
boolean (30_encoding.md R74). -/
def readLine (s : State) : Res State := do
  let t ← readLineLoop (s.params.blocks - s.currentBlockIndex - 1) s
  .ok (t.withResult .done)

/-- The instruction `PAD`. -/
def execPad (s : State) : Out := finish s (pad s)

/-- The command `READ_NEXT`. -/
def execReadNext (s : State) : Out := command s (readAllowed s) (readNext s)

/-- The command `READ_LINE`. -/
def execReadLine (s : State) : Out := command s (readAllowed s) (readLine s)

end Sys2Proof.Machine
end

