-- ==== Sys2Proof/Machine/Commands.lean ====
section
/-! DEFINITION. CONSTRUCT (70_reset_and_hazards.md R221), FINALIZE_LINE (46_line_decoder.md R172), the accessors LINE_A and LINE_B
(R174, R175) and the reserved codes (60_exceptions.md R192). -/

namespace Sys2Proof.Machine

/-! ### CONSTRUCT -/

/-- A context at the start of a line (10_state.md R25, 46_line_decoder.md R172 step 5). -/
def freshCtx (P : Parameters) : Ctx :=
  { g := Config.gInit, lastNew := .const P.defaultPixValue, lastOld := .const P.defaultPixValue }

/-- A buffer after construction (10_state.md R25). -/
def freshLine (P : Parameters) : BlockLine := blankLine P.blocks P.defaultPixValue

/-- The instance after a successful CONSTRUCT (70_reset_and_hazards.md R221). `a .. f` are left unspecified: free values
(notes/assumptions/5.md). BITSRC and HOOKS are not touched. -/
def constructed (P : Parameters) (s : State) : State :=
  { s with
    st := .active
    err := .none
    params := P
    ctxA := freshCtx P
    ctxB := freshCtx P
    bp := freeBlockParams s.freeCtr
    bitdepthDiff := 0
    decodingMode := false
    currentLineIndex := 0
    currentBlockIndex := 0
    readValuesCount := 0
    i := 0
    noiseLevel := Config.noiseLevelInit
    noiseCount := 0
    noiseLevels := Config.noiseHistoryInit
    lineA := freshLine P
    lineBC := freshLine P
    lineAPrev := freshLine P
    lineBPrev := freshLine P
    lineCPrev := freshLine P
    result := .done
    freeCtr := s.freeCtr + 1 }

/-- The instance that CONSTRUCT rebuilds (60_exceptions.md R201), as its validation finds it: not POISONED and without a cause,
whatever the old one was. DESIGN CHOICE between rules that differ, notes/assumptions/8.md. -/
def newInstance (s : State) : State := { s with st := .unconfigured, err := .none }

/-- `CONSTRUCT(P)`: the validation comes first (70_reset_and_hazards.md R221). -/
def construct (P : Parameters) (s : State) : Res State :=
  if legalParams P then .ok (constructed P s) else .error (.raised .parameterOutOfRange)

/-- The command `CONSTRUCT P`, legal in every state (70_reset_and_hazards.md R221). A failed one leaves POISONED and `err = 2`
from every state (10_state.md R25, R221, 95_test_vectors.md 2.9), also from POISONED, where R196 would keep `err`
(60_exceptions.md; notes/assumptions/8.md). -/
def execConstruct (P : Parameters) (s : State) : Out := finish (newInstance s) (construct P s)

/-! ### FINALIZE_LINE, its five steps (46_line_decoder.md R172) -/

/-- Steps 1 and 2: the content copies (20_memory.md R53). -/
def rotateLines (s : State) : State :=
  if isUpperFieldLine s then { s with lineAPrev := s.lineA, lineBPrev := s.lineBC }
  else { s with lineAPrev := s.lineA, lineCPrev := s.lineBC }

/-- `PPA` on `line_a_prev`. -/
def runPostProcessA (s : State) : State :=
  let r := Config.postProcessA s.lineAPrev (isNeededField s) s.noiseLevel s.hookState
  { s with lineAPrev := settleAs s.lineAPrev r.1, hookState := r.2 }

/-- `PPB` on the previous line of the field just decoded. -/
def runPostProcessB (s : State) : State :=
  if isUpperFieldLine s then
    let r := Config.postProcessB s.lineBPrev s.noiseLevel s.hookState
    { s with lineBPrev := settleAs s.lineBPrev r.1, hookState := r.2 }
  else
    let r := Config.postProcessB s.lineCPrev s.noiseLevel s.hookState
    { s with lineCPrev := settleAs s.lineCPrev r.1, hookState := r.2 }

/-- `TRUNC` on `line_a_prev`. -/
def runTruncateA (s : State) : State :=
  let r := Config.truncate s.lineAPrev s.params.bitdepthReal Config.truncateShift s.hookState
  { s with lineAPrev := settleAs s.lineAPrev r.1, hookState := r.2 }

/-- `TRUNC` on `line_b_prev`. -/
def runTruncateB (s : State) : State :=
  let r := Config.truncate s.lineBPrev s.params.bitdepthReal Config.truncateShift s.hookState
  { s with lineBPrev := settleAs s.lineBPrev r.1, hookState := r.2 }

/-- `TRUNC` on `line_c_prev`. -/
def runTruncateC (s : State) : State :=
  let r := Config.truncate s.lineCPrev s.params.bitdepthReal Config.truncateShift s.hookState
  { s with lineCPrev := settleAs s.lineCPrev r.1, hookState := r.2 }

/-- Step 3: the post-processing hooks in their order. -/
def runHooks (s : State) : State :=
  runTruncateC (runTruncateB (runTruncateA (runPostProcessB (runPostProcessA s))))

/-- Step 4: the roll-up of the noise estimate (45_noise_estimator.md R152). -/
def rollUpNoise (s : State) : State :=
  let r := Config.estimateNoiseLevel s.params.noiseLevel1 s.params.noiseLevel2 s.noiseCount s.noiseLevels s.hookState
  { s with noiseLevel := r.1.1, noiseLevels := r.1.2, hookState := r.2 }

/-- Step 5: the next line begins. -/
def restartLine (s : State) : State :=
  { s with
    currentLineIndex := s.currentLineIndex + 1
    currentBlockIndex := 0
    readValuesCount := 0
    noiseCount := 0
    ctxA := freshCtx s.params
    ctxB := freshCtx s.params }

/-- The five steps. From line index 2^32 - 1 the step is not taken (10_state.md R18, 93_implementation_defined.md U9). -/
def finalizeLine (s : State) : Res State :=
  if s.currentLineIndex = BitVec.allOnes 32 then .error (.refused .lineIndexOverflow)
  else .ok ((restartLine (rollUpNoise (runHooks (rotateLines s)))).withResult .done)

/-- The command `FINALIZE_LINE`. -/
def execFinalizeLine (s : State) : Out := command s (finalizeAllowed s) (finalizeLine s)

/-! ### Accessors and reserved codes -/

/-- The words of a buffer as the response (46_line_decoder.md R174). -/
def returnWords (b : BlockLine) (s : State) : Res State := do
  let ws ← snapshot b s.params.valuesPerLine
  .ok (s.withResult (.words ws))

/-- The command `LINE_A` (R174). -/
def execLineA (s : State) : Out := command s (s.st == .active) (returnWords s.lineA s)

/-- The command `LINE_B` (R175). -/
def execLineB (s : State) : Out := command s (s.st == .active) (returnWords s.lineBC s)

/-- A reserved command code: NotImplemented in ACTIVE and UNCONFIGURED, refused in POISONED
(60_exceptions.md R192, R199). Both codes do the same. -/
def execReserved (_odd : Bool) (s : State) : Out := command s true (.error (.raised .notImplemented))

end Sys2Proof.Machine
end

