-- ==== Sys2Proof/Machine/Prefix.lean ====
section
/-! DEFINITION. The prefix codewords as instructions (40_prefix_code.md R81 to R93): each returns its class and size, writes
nothing of the machine's registers and does not move `pos` (R80). -/

namespace Sys2Proof.Machine

/-- A codeword returns `(class, size)` (40_prefix_code.md R80). -/
def returnCodeword (c : Cls) (s : State) : Out := .next (s.withResult (.codeword c.val (prefixSize c)))

/-- `PFX.0` (R81). -/
def execPfx0 (s : State) : Out := returnCodeword 0 s
/-- `PFX.1` (R82). -/
def execPfx1 (s : State) : Out := returnCodeword 1 s
/-- `PFX.2` (R83). -/
def execPfx2 (s : State) : Out := returnCodeword 2 s
/-- `PFX.3` (R84). -/
def execPfx3 (s : State) : Out := returnCodeword 3 s
/-- `PFX.4` (R85). -/
def execPfx4 (s : State) : Out := returnCodeword 4 s
/-- `PFX.5` (R86). -/
def execPfx5 (s : State) : Out := returnCodeword 5 s
/-- `PFX.6` (R87). -/
def execPfx6 (s : State) : Out := returnCodeword 6 s
/-- `PFX.7` (R88). -/
def execPfx7 (s : State) : Out := returnCodeword 7 s
/-- `PFX.8` (R89). -/
def execPfx8 (s : State) : Out := returnCodeword 8 s
/-- `PFX.9` (R93). -/
def execPfx9 (s : State) : Out := returnCodeword 9 s
/-- `PFX.10` (R92). -/
def execPfx10 (s : State) : Out := returnCodeword 10 s
/-- `PFX.11` (R90). -/
def execPfx11 (s : State) : Out := returnCodeword 11 s
/-- `PFX.12`, the escape (R91). -/
def execPfx12 (s : State) : Out := returnCodeword 12 s

end Sys2Proof.Machine
end

