-- ==== Sys2Proof/Machine/Dispatch.lean ====
section
/-! DEFINITION. One arm per constructor of Instr. -/

namespace Sys2Proof.Machine

/-- The meaning of an instruction. -/
def exec (i : Instr) (s : State) : Host.Outcome State Fault Refusal :=
  match i with
  | .hdrL m => Sys2Proof.Machine.execHdrL m s
  | .hdrF d m => Sys2Proof.Machine.execHdrF d m s
  | .hdrK m => Sys2Proof.Machine.execHdrK m s
  | .hdrD code m => Sys2Proof.Machine.execHdrD code m s
  | .pfx0 => Sys2Proof.Machine.execPfx0 s
  | .pfx1 => Sys2Proof.Machine.execPfx1 s
  | .pfx2 => Sys2Proof.Machine.execPfx2 s
  | .pfx3 => Sys2Proof.Machine.execPfx3 s
  | .pfx4 => Sys2Proof.Machine.execPfx4 s
  | .pfx5 => Sys2Proof.Machine.execPfx5 s
  | .pfx6 => Sys2Proof.Machine.execPfx6 s
  | .pfx7 => Sys2Proof.Machine.execPfx7 s
  | .pfx8 => Sys2Proof.Machine.execPfx8 s
  | .pfx11 => Sys2Proof.Machine.execPfx11 s
  | .pfx12 => Sys2Proof.Machine.execPfx12 s
  | .pfx10 => Sys2Proof.Machine.execPfx10 s
  | .pfx9 => Sys2Proof.Machine.execPfx9 s
  | .vlpair ca lsa cb lsb => Sys2Proof.Machine.execVlpair ca lsa cb lsb s
  | .rawpair v1 v2 => Sys2Proof.Machine.execRawpair v1 v2 s
  | .pad => Sys2Proof.Machine.execPad s
  | .construct P => Sys2Proof.Machine.execConstruct P s
  | .readNext => Sys2Proof.Machine.execReadNext s
  | .readLine => Sys2Proof.Machine.execReadLine s
  | .finalizeLine => Sys2Proof.Machine.execFinalizeLine s
  | .lineA => Sys2Proof.Machine.execLineA s
  | .lineB => Sys2Proof.Machine.execLineB s
  | .reserved odd => Sys2Proof.Machine.execReserved odd s

end Sys2Proof.Machine
end

