-- ==== Sys2Proof/Machine/Sequencer.lean ====
section
/-! DEFINITION. Where the next instruction is fetched, and what the sequencer does around a stream element that is executed on its own
(10_state.md R14, 46_line_decoder.md R162, R169, R177): the loop of READ_NEXT cut at its elements. Notes/assumptions/1.md. -/

namespace Sys2Proof.Machine

/-- The place the next instruction is fetched from, with the state its format depends on (30_encoding.md R66, R67, R72). -/
def fetchCtx (s : State) : FetchCtx :=
  match s.seq with
  | .command => .port
  | .header => .header s.params.lossless (s.readValuesCount == 0)
  | .pair => if s.decodingMode then .rawpair s.bp.f else .vlpair (lsbK s.ctxA.g) (lsbK s.ctxB.g) s.bp.f
  | .pad => .pad (padBits s.params.alignMode s.pos)
  | .codeword => .codeword

/-- READ_NEXT returns to the command port. -/
def endTransaction (s : State) : State := (returnComplete s).withSeq .command

/-- What follows in the block: another pair, or the end of the block with its padding. -/
def continueBlock (s : State) : State :=
  if morePairs s then s.withSeq .pair
  else if padDue (leaveBlock s) then (leaveBlock s).withSeq .pad
  else endTransaction (leaveBlock s)

/-- After an element: the sequencer goes on as READ_NEXT does. A fault has ended the transaction
(60_exceptions.md R196), and there is nothing to go on with. -/
def advance (s : State) : State :=
  match s.seq with
  | .command => s
  | .header => continueBlock (enterBlock s)
  | .pair => continueBlock (s.withIndex (s.i + 1))
  | .pad => endTransaction s
  | .codeword => s.withSeq .command

/-- `advance` on an outcome. -/
def afterElement : Out → Out
  | .next s => .next (advance s)
  | .fault f => .fault f
  | .refused r => .refused r

/-- A state whose next fetch is a header of the given kind: the form depends on `lossless` and on whether
`read_values_count` is 0 (30_encoding.md R66). -/
def atHeader (lossless first : Bool) (s : State) : State :=
  { s with
    seq := .header
    params := { s.params with lossless := lossless }
    readValuesCount := if first then 0 else max 1 s.readValuesCount }

/-- A state whose next fetch is a pair of the given mode and `f`: a VL pair without plain LSB fields, or a raw pair. -/
def atPair (raw : Bool) (f : Nat) (s : State) : State :=
  { s with seq := .pair, decodingMode := raw, bp := { s.bp with f := f } }

/-- `s` with `code` where the step fetches next, in the place `c`: on the command port before the host's other actions, or in
the stream at `pos`. The plain LSB widths of a VL pair follow from `g` and are left as they are. -/
def placeCode (c : FetchCtx) (code : Code) (s : State) : State :=
  match code with
  | .port cmd arg => (s.withSeq .command).withPort (.command cmd arg :: s.port)
  | .bits bs =>
    let t := s.withStream (s.stream.take s.pos ++ bs ++ s.stream.drop (s.pos + bs.length)) s.pos
    match c with
    | .port => t
    | .header lossless first => atHeader lossless first t
    | .vlpair _ _ f => atPair false f t
    | .rawpair f => atPair true f t
    | .pad _ => t.withSeq .pad
    | .codeword => t.withSeq .codeword

/-- The word of an opcode-table row placed where the step fetches next (notes/assumptions/10.md). -/
def placeTableWord (nbits w : Nat) (s : State) : State :=
  placeCode (tableCtx nbits w) (tableCode (tableCtx nbits w) w) s

end Sys2Proof.Machine
end

