-- ==== Sys2Proof/Machine/Step.lean ====
section
/-! DEFINITION. One step: a host action between transactions (a command is one atomic step, 70_reset_and_hazards.md R228), or one
stream element when the sequencer stands at one. -/

namespace Sys2Proof.Machine

/-- Between transactions: the host's next action. With none pending nothing happens (R229; notes/assumptions/18.md). -/
def commandStep (s : State) : Host.Outcome State Fault Refusal :=
  match s.port with
  | [] => .next s
  | .present bits p :: rest => presentStream bits p (s.withPort rest)
  | .command cmd arg :: rest =>
    match decode .port (.port cmd arg) with
    | .ok i => exec i (s.withPort rest)
    | .error e => .refused (.undecodable e)

/-- Inside a transaction: the element at `pos`, and then the sequencer. -/
def elementStep (s : State) : Host.Outcome State Fault Refusal :=
  match decode (fetchCtx s) (.bits (upcoming s)) with
  | .ok i => afterElement (exec i s)
  | .error e => .refused (.undecodable e)

/-- One step. -/
def step (s : State) : Host.Outcome State Fault Refusal :=
  if s.seq = .command then commandStep s else elementStep s

/-- `s` with the word of an opcode-table row where the step fetches its next instruction. -/
def State.withFetchWord (s : State) (nbits w : Nat) : State := placeTableWord nbits w s

end Sys2Proof.Machine
end

