-- ==== Sys2Proof/WellFormed.lean ====
section
/-! DEFINITION. Which instructions can stand in a place, with which operands: every field fits the width its place gives it, and
a VL pair fits the peek window (30_encoding.md R66 to R73). -/

namespace Sys2Proof

/-- The operands of a VLPAIR fit its place: each LSB field fits its width, and the whole pair fits the 48-bit window
(30_encoding.md R67, R73). -/
def VlFields.wellFormed (ka kb f : Nat) (p : VlFields) : Bool :=
  p.lsa < 2 ^ lsbWidth p.ca ka f && p.lsb < 2 ^ lsbWidth p.cb kb f &&
    prefixSize p.ca + prefixSize p.cb + lsbWidth p.ca ka f + lsbWidth p.cb kb f ≤ Config.peekBits

/-- An instruction is well formed in a place: it is one of those fetched there, and its operands fit. -/
def wellFormed (c : FetchCtx) (i : Instr) : Bool :=
  match i with
  | .hdrL _ => match c with
    | .header lossless _ => lossless
    | .port | .vlpair _ _ _ | .rawpair _ | .pad _ | .codeword => false
  | .hdrF _ _ => match c with
    | .header lossless first => !lossless && first
    | .port | .vlpair _ _ _ | .rawpair _ | .pad _ | .codeword => false
  | .hdrK _ | .hdrD _ _ => match c with
    | .header lossless first => !lossless && !first
    | .port | .vlpair _ _ _ | .rawpair _ | .pad _ | .codeword => false
  | .pfx0 | .pfx1 | .pfx2 | .pfx3 | .pfx4 | .pfx5 | .pfx6 | .pfx7 | .pfx8 | .pfx9 | .pfx10 | .pfx11 | .pfx12 =>
    match c with
    | .codeword => true
    | .port | .header _ _ | .vlpair _ _ _ | .rawpair _ | .pad _ => false
  | .vlpair ca lsa cb lsb => match c with
    | .vlpair ka kb f => VlFields.wellFormed ka kb f ⟨ca, lsa, cb, lsb⟩
    | .port | .header _ _ | .rawpair _ | .pad _ | .codeword => false
  | .rawpair v1 v2 => match c with
    | .rawpair f => v1 < 2 ^ f && v2 < 2 ^ f && f ≤ 16
    | .port | .header _ _ | .vlpair _ _ _ | .pad _ | .codeword => false
  | .pad => match c with
    | .pad _ => true
    | .port | .header _ _ | .vlpair _ _ _ | .rawpair _ | .codeword => false
  | .construct _ | .readNext | .readLine | .finalizeLine | .lineA | .lineB | .reserved _ => match c with
    | .port => true
    | .header _ _ | .vlpair _ _ _ | .rawpair _ | .pad _ | .codeword => false

end Sys2Proof
end

