-- ==== Sys2Proof/Safety.lean ====
section
/-! DEFINITION. The terms claims are stated in: the invariant of the machine between transactions, what taking a fault looks like from
outside, what one store does to a buffer, and the run of a block element by element. -/

namespace Sys2Proof.Machine

/-! ### The invariant between transactions -/

/-- A buffer has the shape the Parameters fix (10_state.md R21, R25). -/
def State.shaped (s : State) (b : BlockLine) : Prop :=
  b.blocks = s.params.blocks ∧ b.fill = s.params.defaultPixValue

/-- What holds of an ACTIVE instance between transactions (10_state.md R11 to R24). -/
def State.ActiveInv (s : State) : Prop :=
  legalParams s.params = true ∧
  s.shaped s.lineA ∧ s.shaped s.lineBC ∧ s.shaped s.lineAPrev ∧ s.shaped s.lineBPrev ∧ s.shaped s.lineCPrev ∧
  s.currentBlockIndex ≤ s.params.blocks ∧
  s.readValuesCount = min (Config.blockSize * s.currentBlockIndex) s.params.valuesPerLine ∧
  s.i = 0 ∧
  s.bitdepthDiff ≤ 15 ∧ (s.bitdepthDiff : Int) ≤ s.params.bitdepthReal.toInt ∧
  1 ≤ s.ctxA.g ∧ (s.ctxA.g : Int) ≤ s.params.maxAllowedRawValue.toInt ∧
  1 ≤ s.ctxB.g ∧ (s.ctxB.g : Int) ≤ s.params.maxAllowedRawValue.toInt ∧
  s.noiseCount ≤ s.readValuesCount

/-- The invariant of the machine between transactions. -/
def State.Inv (s : State) : Prop :=
  s.seq = .command ∧
  s.pos ≤ s.streamLength ∧
  s.memoryWf = true ∧
  (s.err = .none ↔ s.st ≠ .poisoned) ∧
  (s.st = .active → s.ActiveInv)

/-! ### Outcomes -/

/-- The outcome takes the fault `e` from `s` (60_exceptions.md R196): POISONED, the code latched unless the instance was
poisoned already, the host's and the bit source's own state untouched, `pos` not beyond the end. -/
def takesFault (o : Out) (s : State) (e : ErrCode) : Prop :=
  ∃ t, o = .next t ∧ t.st = .poisoned ∧ t.err = (if s.st = .poisoned then s.err else e) ∧
    t.result = .faulted ∧ t.seq = .command ∧ t.stream = s.stream ∧ t.pos ≤ t.streamLength ∧ t.port = s.port ∧
    t.hookState = s.hookState

/-- `new` is `old` with the sample of key `key` replaced by `v`, and nothing else changed. -/
def storesSample (old new : BlockLine) (key : Nat) (v : Sample) : Prop :=
  new.blocks = old.blocks ∧ new.fill = old.fill ∧ new.headers = old.headers ∧
    ∀ n, new.sampleAt n = if n = key then v else old.sampleAt n

/-- `new` is `old` with the header entry of block `blk` replaced by `v`, and nothing else changed. -/
def storesHeader (old new : BlockLine) (blk : Nat) (v : HdrVal) : Prop :=
  new.blocks = old.blocks ∧ new.fill = old.fill ∧ new.samples = old.samples ∧
    ∀ n, new.headerAt n = if n = blk then v else old.headerAt n

/-- The current buffers hold block `current_block_index`, and are canonical. -/
def State.currentBlockExists (s : State) : Prop :=
  s.lineA.wf = true ∧ s.lineBC.wf = true ∧ s.currentBlockIndex < s.lineA.blocks ∧ s.currentBlockIndex < s.lineBC.blocks

/-- Position `(current_block_index, i)` exists in every buffer a pair reads or stores. -/
def State.pairPositionExists (s : State) : Prop :=
  s.currentBlockExists ∧ s.i < Config.blockSize ∧
    (s.currentLineIndex.toNat > 0 →
      s.currentBlockIndex < s.lineAPrev.blocks ∧
      s.currentBlockIndex < (if s.currentLineIndex.toNat % 2 = 0 then s.lineBPrev else s.lineCPrev).blocks)

/-- The sample above the pair in a previous-line buffer, or the default on line 0 (42_block_vl.md R111). -/
def State.above (s : State) (prev : BlockLine) : Sample :=
  if s.currentLineIndex.toNat > 0 then prev.sampleAt (s.currentBlockIndex * Config.blockSize + s.i)
  else s.params.defaultPixValue

/-- The header at `pos` leaves `bitdepth_diff` in its range (46_line_decoder.md R167). -/
def State.headerInRange (s : State) : Prop :=
  s.params.lossless = true ∨
  (s.readValuesCount = 0 ∧ (peek 4 s : Int) ≤ s.params.bitdepthReal.toInt) ∨
  (s.readValuesCount ≠ 0 ∧ (peek 1 s = 0 ∨
    (0 ≤ s.bitdepthDiff + headerDelta (BitVec.ofNat 2 (peek 3 s / 2)) ∧
      s.bitdepthDiff + headerDelta (BitVec.ofNat 2 (peek 3 s / 2)) ≤ 15 ∧
      s.bitdepthDiff + headerDelta (BitVec.ofNat 2 (peek 3 s / 2)) ≤ s.params.bitdepthReal.toInt)))

/-! ### A block, element by element -/

/-- At most `n` steps, while a transaction is in progress. -/
def runElements : Nat → State → Out
  | 0, s => .next s
  | n + 1, s =>
    if s.seq = .command then .next s
    else match step s with
      | .next t => runElements n t
      | .fault f => .fault f
      | .refused r => .refused r

end Sys2Proof.Machine
end

