-- ==== Sys2Proof/Certificates/Slice0/Obligations.lean ====
section
/-! DEFINITION. The statements for the provers. Each says in its docstring which rules of spec/ it formalises. -/

open Sys2Proof Sys2Proof.Machine

/-! ### Decoding and encoding -/

/-- 30_encoding.md R61 to R74: what the encoder writes for an instruction that is well formed in its place, the decoder reads
back, whatever bits follow in the stream. -/
def Obligations.DecodeReadsBackWhatEncodeWrites : Prop :=
  ∀ (c : FetchCtx) (i : Instr), wellFormed c i = true →
    decode c (encode c i) = .ok i ∧
    ∀ bs rest, encode c i = .bits bs → decode c (.bits (bs ++ rest)) = .ok i

/-- 40_prefix_code.md R80 to R94, 30_encoding.md R68: for every window, `DecodePrefix` returns a row's class and size exactly
when the window begins with that row's codeword. -/
def Obligations.PrefixDecoderFollowsTheCodeTable : Prop :=
  ∀ W : Nat,
    (decodePrefix W = (0, 1) ↔ W % 2 ^ 1 = 0x001) ∧ (decodePrefix W = (1, 2) ↔ W % 2 ^ 2 = 0x002) ∧
    (decodePrefix W = (2, 3) ↔ W % 2 ^ 3 = 0x004) ∧ (decodePrefix W = (3, 4) ↔ W % 2 ^ 4 = 0x008) ∧
    (decodePrefix W = (4, 5) ↔ W % 2 ^ 5 = 0x010) ∧ (decodePrefix W = (5, 7) ↔ W % 2 ^ 7 = 0x020) ∧
    (decodePrefix W = (6, 7) ↔ W % 2 ^ 7 = 0x060) ∧ (decodePrefix W = (7, 8) ↔ W % 2 ^ 8 = 0x040) ∧
    (decodePrefix W = (8, 8) ↔ W % 2 ^ 8 = 0x0C0) ∧ (decodePrefix W = (11, 9) ↔ W % 2 ^ 9 = 0x080) ∧
    (decodePrefix W = (12, 9) ↔ W % 2 ^ 9 = 0x180) ∧ (decodePrefix W = (10, 9) ↔ W % 2 ^ 9 = 0x100) ∧
    (decodePrefix W = (9, 9) ↔ W % 2 ^ 9 = 0x000)

/-- 30_encoding.md R62 to R71, R75: some words written out from the spec, decoded in their places. -/
def Obligations.WrittenOutWordsDecode : Prop :=
  decode (.header false true) (.bits [true, false, true, false, true]) = .ok (.hdrF 5 true) ∧
  decode (.header false false) (.bits [true, false, true, true]) = .ok (.hdrD 2 true) ∧
  decode (.header false false) (.bits [false, true]) = .ok (.hdrK true) ∧
  decode (.header true true) (.bits [false]) = .ok (.hdrL false) ∧
  decode (.vlpair 2 2 12) (.bits [false, true, true, false, true, true, false]) = .ok (.vlpair 1 2 0 1) ∧
  decode (.rawpair 8) (.bits [true, true, false, true, false, true, false, true,
    true, false, false, false, false, false, false, false]) = .ok (.rawpair 171 1) ∧
  decode .codeword (.bits [false, false, false, false, false, true, true]) = .ok .pfx6 ∧
  decode .port (.port 0b011 .zero) = .ok .finalizeLine ∧
  decode .port (.port 0b110 .zero) = .ok (.reserved false)

/-- 30_encoding.md R60, R67, R70, R71: the length of every stream element in its place. -/
def Obligations.EncodedElementsHaveTheTablesLengths : Prop :=
  ∀ (c : FetchCtx) (i : Instr), wellFormed c i = true → commandCode i = none →
    (encodeBits c i).length =
      match i, c with
      | .hdrL _, _ => 1
      | .hdrF _ _, _ => 5
      | .hdrK _, _ => 2
      | .hdrD _ _, _ => 4
      | .vlpair ca _ cb _, .vlpair ka kb f =>
        prefixSize ca + prefixSize cb + (if ca = 12 then f else ka) + (if cb = 12 then f else kb)
      | .rawpair _ _, .rawpair f => 2 * f
      | .pad, .pad n => n
      | .pfx0, _ => 1
      | .pfx1, _ => 2
      | .pfx2, _ => 3
      | .pfx3, _ => 4
      | .pfx4, _ => 5
      | .pfx5, _ => 7
      | .pfx6, _ => 7
      | .pfx7, _ => 8
      | .pfx8, _ => 8
      | .pfx9, _ => 9
      | .pfx10, _ => 9
      | .pfx11, _ => 9
      | .pfx12, _ => 9
      | _, _ => 0

/-! ### Stream and buffer accesses -/

/-- 20_memory.md R43: Consume either faults, when the bits are not there, or moves `pos` and nothing else. -/
def Obligations.ConsumeFaultsOrMovesPos : Prop :=
  ∀ (n : Nat) (s : State),
    (s.pos + n > s.stream.length → consume n s = .error (.raised .unexpectedEndOfStream)) ∧
    (s.pos + n ≤ s.stream.length → consume n s = .ok { s with pos := s.pos + n })

/-- 20_memory.md R41, R42: bit `k` of Peek(n) is the stream's bit `pos + k`, and 0 beyond `L` and beyond the `n` bits. -/
def Obligations.PeekReadsTheStreamZeroFilled : Prop :=
  ∀ (n k : Nat) (s : State),
    (peek n s).testBit k = (if k < n ∧ s.pos + k < s.stream.length then s.stream.getD (s.pos + k) false else false)

/-- 20_memory.md R50, R51: a sample stored at a position a buffer has is read back there, every other sample and every header
entry is as before, and the buffer stays canonical. -/
def Obligations.StoredSampleIsReadBack : Prop :=
  ∀ (b : BlockLine) (blk i : Nat) (v : Sample), b.wf = true → blk < b.blocks → i < 16 →
    ∃ b', memWrite b blk i v = .ok b' ∧ b'.wf = true ∧ memRead b' blk i = .ok v ∧
      storesSample b b' (blk * 16 + i) v

/-- 20_memory.md R52: a header entry stored for a block a buffer has is read back, every other entry and every sample is as
before, and the buffer stays canonical. -/
def Obligations.StoredHeaderEntryIsReadBack : Prop :=
  ∀ (b : BlockLine) (blk : Nat) (v : HdrVal), b.wf = true → blk < b.blocks →
    ∃ b', hdrWrite b blk v = .ok b' ∧ b'.wf = true ∧ storesHeader b b' blk v

/-! ### Block parameters, widths, values, prediction -/

/-- 41_block_parameters.md R100 to R105: the six BlockParameters of a legal `bitdepth_diff`, `e` the least exponent. -/
def Obligations.DerivedParametersFollowTheRules : Prop :=
  ∀ (s : State), legalParams s.params = true → s.bitdepthDiff ≤ 15 →
    (s.bitdepthDiff : Int) ≤ s.params.bitdepthReal.toInt →
    ∃ bp : BlockParams, deriveParams s = { s with bp := bp } ∧
      bp.a = s.bitdepthDiff ∧
      bp.b = 2 ^ bp.a ∧ 1 ≤ bp.b ∧ bp.b ≤ 32768 ∧
      (bp.c : Int) = max 0 ((bp.b : Int) / 2 - 1) ∧
      (bp.d : Int) = (2 * bp.c + s.params.maxAllowedPixelValue.toInt) / 2 ^ bp.a + 1 ∧ 1 ≤ bp.d ∧
      bp.d ≤ 2 ^ bp.e ∧ (∀ e', bp.d ≤ 2 ^ e' → bp.e ≤ e') ∧
      (bp.f : Int) = s.params.bitdepthReal.toInt - bp.a ∧ bp.f ≤ 16

/-- 41_block_parameters.md R103, 44_predictor_unmod.md R147: the folding period exceeds the range it folds into, and stays
below 2^17. -/
def Obligations.FoldingPeriodExceedsTheRange : Prop :=
  ∀ (P : Parameters) (diff : Nat), legalParams P = true → diff ≤ 15 →
    ((blockParams P diff).b * (blockParams P diff).d : Int) > 2 * (blockParams P diff).c + P.maxAllowedPixelValue.toInt ∧
    (blockParams P diff).b * (blockParams P diff).d < 2 ^ 17

/-- 42_block_vl.md R112: `K(x)` is the least `i` in 0..6 with `x >> (i+1) == 0`, and 6 when there is none. -/
def Obligations.LsbWidthIsTheCappedBitWidth : Prop :=
  ∀ x : Nat,
    lsbK x ≤ 6 ∧ (∀ i, i < lsbK x → x / 2 ^ (i + 1) ≠ 0) ∧ (x < 128 → x / 2 ^ (lsbK x + 1) = 0) ∧
      (128 ≤ x → lsbK x = 6)

/-- 42_block_vl.md R117: even values are the non-negative residuals, odd values the negative ones, and no two values have the
same residual. -/
def Obligations.ResidualMapIsSignInterleaved : Prop :=
  (∀ n : Nat, residualOf (2 * n) = n ∧ residualOf (2 * n + 1) = -(n : Int) - 1) ∧
  ∀ v w : Nat, residualOf v = residualOf w → v = w

/-- 44_predictor_unmod.md R140, R142: the three cases of `fixPrediction`, its symmetry, and that it lies between its
neighbours. -/
def Obligations.FixPredictionIsTheFoldedMedian : Prop :=
  ∀ p q v : Int,
    (max p q ≤ v → fixPrediction p q v = min p q) ∧
    (min p q < v → v < max p q → fixPrediction p q v = p + q - v) ∧
    (v ≤ min p q → v < max p q → fixPrediction p q v = max p q) ∧
    fixPrediction p q v = fixPrediction q p v ∧
    min p q ≤ fixPrediction p q v ∧ fixPrediction p q v ≤ max p q

/-- 44_predictor_unmod.md R143, R145: the three cases of `unmod`, one fold each; where the period is not 0, a second application
changes nothing exactly when the first lands in range. -/
def Obligations.UnmodIsIdempotentExactlyInRange : Prop :=
  ∀ x step off range n : Int,
    (x < -range → unmod x step off range n = x + n * step) ∧
    (-range ≤ x → range + off < x → unmod x step off range n = x - n * step) ∧
    (-range ≤ x → x ≤ range + off → unmod x step off range n = x) ∧
    (n * step ≠ 0 →
      (unmod (unmod x step off range n) step off range n = unmod x step off range n ↔
        -range ≤ unmod x step off range n ∧ unmod x step off range n ≤ range + off))

/-- 42_block_vl.md R120, 10_state.md R24, 44_predictor_unmod.md R147: the new `g` never leaves its range, and its exact value, for
a value above `max_allowed_raw_value` too: the value, less 1 where its class is above 11, cut to the range. -/
def Obligations.UpdatedEstimateStaysInRange : Prop :=
  ∀ (value k g : Nat) (R : Int), 4 ≤ R → 1 ≤ g → (g : Int) ≤ R →
    1 ≤ updateG value k g R ∧ (updateG value k g R : Int) ≤ R ∧
    (value ≤ 65536 → g ≤ 65536 → updateG value k g R ≤ 65536) ∧
    (value / 2 ^ k ≤ 11 → (updateG value k g R : Int) = (2 * min (value : Int) R + 2 * g + 2) / 4) ∧
    (value / 2 ^ k > 11 → (updateG value k g R : Int) = (2 * min ((value : Int) - 1) R + 2 * g + 2) / 4)

/-- 30_encoding.md R73, R76, 42_block_vl.md R115, R124: a value sent as an escape decodes to the same context as the value sent
plain. -/
def Obligations.EscapeAndPlainFormsDecodeAlike : Prop :=
  ∀ (P : Parameters) (bp : BlockParams) (k v : Nat) (c : Ctx) (cls : Cls),
    1 ≤ v → v ≤ 2 ^ bp.f → v / 2 ^ k = cls.val → cls.val ≤ 11 →
    vlSample P bp cls k (v % 2 ^ k) k c = vlSample P bp 12 bp.f (v - 1) k c

/-- 30_encoding.md R76 (`RES`), 42_block_vl.md R115, R117, R118: in a block of `a = 0` every sample in range is reached from
whatever is predicted, by the value `RES` gives for the difference. -/
def Obligations.ResidualReachesEverySampleLosslessly : Prop :=
  ∀ (P : Parameters) (c : Ctx) (p : Int), legalParams P = true → 0 ≤ p → p ≤ P.maxAllowedPixelValue.toInt →
    reconstruct (blockParams P 0) P.maxAllowedPixelValue.toInt
      (if 0 ≤ p - prediction c then (2 * (p - prediction c)).toNat else (-2 * (p - prediction c) - 1).toNat) c = p

/-- 10_state.md R24 (first row), 42_block_vl.md R118: a VL sample lies in `[0, max_allowed_pixel_value]`, whatever the
neighbours and the block's parameters are. -/
def Obligations.VlSamplesStayBelowTheCeiling : Prop :=
  ∀ (P : Parameters) (bp : BlockParams) (cls : Cls) (l lsb k : Nat) (c : Ctx), legalParams P = true →
    ((vlSample P bp cls l lsb k c).lastNew.w0.toNat : Int) ≤ P.maxAllowedPixelValue.toInt

/-- 45_noise_estimator.md R150, R151: the noise tick counts the pixel exactly when one of the three distances of component A is
below the threshold, and writes the counter only. -/
def Obligations.NoiseTickCountsQuietPixels : Prop :=
  ∀ s : State,
    noiseTick s = { s with noiseCount := s.noiseCount +
      (if |(s.ctxA.lastNew.w0.toNat : Int) - s.ctxA.lastNew.w1.toNat| < s.params.noiseLevelDistance.toNat ∨
          |(s.ctxA.lastOld.w1.toNat : Int) - s.ctxA.lastNew.w0.toNat| < s.params.noiseLevelDistance.toNat ∨
          |(s.ctxA.lastOld.w0.toNat : Int) - s.ctxA.lastNew.w0.toNat| < s.params.noiseLevelDistance.toNat
        then 1 else 0) }

/-- 46_line_decoder.md R160, R161: the field parity and the needed field. -/
def Obligations.FieldPredicatesFollowTheTable : Prop :=
  ∀ s : State,
    (isUpperFieldLine s = true ↔ s.currentLineIndex.toNat % 2 = 0) ∧
    (isNeededField s = true ↔
      if s.params.bayerPattern = 0 ∨ s.params.bayerPattern = 3 then s.currentLineIndex.toNat % 2 = 1
      else s.currentLineIndex.toNat % 2 = 0)

/-! ### The headers -/

/-- 46_line_decoder.md R163, R168: `HDR.L m`, its next state and its fault. -/
def Obligations.HdrLSetsDepthZeroAndMode : Prop :=
  ∀ (m : Bool) (s : State),
    (s.currentBlockExists → s.pos + 1 ≤ s.stream.length →
      ∃ a bc, exec (.hdrL m) s = .next { s with
          pos := s.pos + 1, bitdepthDiff := 0, decodingMode := m, lineA := a, lineBC := bc } ∧
        storesHeader s.lineA a s.currentBlockIndex 0 ∧ storesHeader s.lineBC bc s.currentBlockIndex 0) ∧
    (s.pos + 1 > s.stream.length → takesFault (exec (.hdrL m) s) s .unexpectedEndOfStream)

/-- 46_line_decoder.md R164, R167, R168, 60_exceptions.md R199: `HDR.F d, m`, its next state and its faults in their order. -/
def Obligations.HdrFSetsDepthFromFourBits : Prop :=
  ∀ (d : BitVec 4) (m : Bool) (s : State),
    (s.currentBlockExists → s.pos + 5 ≤ s.stream.length → (d.toNat : Int) ≤ s.params.bitdepthReal.toInt →
      ∃ a bc, exec (.hdrF d m) s = .next { s with
          pos := s.pos + 5, bitdepthDiff := d.toNat, decodingMode := m, lineA := a, lineBC := bc } ∧
        storesHeader s.lineA a s.currentBlockIndex d ∧ storesHeader s.lineBC bc s.currentBlockIndex d) ∧
    (s.pos + 4 > s.stream.length → takesFault (exec (.hdrF d m) s) s .unexpectedEndOfStream) ∧
    (s.pos + 4 ≤ s.stream.length → (d.toNat : Int) > s.params.bitdepthReal.toInt →
      takesFault (exec (.hdrF d m) s) s .bitdepthDiffOutOfRange) ∧
    (s.pos + 4 = s.stream.length → (d.toNat : Int) ≤ s.params.bitdepthReal.toInt →
      takesFault (exec (.hdrF d m) s) s .unexpectedEndOfStream)

/-- 46_line_decoder.md R165, R168: `HDR.K m` keeps `bitdepth_diff`. -/
def Obligations.HdrKKeepsDepth : Prop :=
  ∀ (m : Bool) (s : State),
    (s.currentBlockExists → s.pos + 2 ≤ s.stream.length →
      ∃ a bc, exec (.hdrK m) s = .next { s with
          pos := s.pos + 2, decodingMode := m, lineA := a, lineBC := bc } ∧
        storesHeader s.lineA a s.currentBlockIndex (BitVec.ofNat 4 s.bitdepthDiff) ∧
        storesHeader s.lineBC bc s.currentBlockIndex (BitVec.ofNat 4 s.bitdepthDiff)) ∧
    (s.pos + 2 > s.stream.length → takesFault (exec (.hdrK m) s) s .unexpectedEndOfStream)

/-- 46_line_decoder.md R166, R167, R168, 60_exceptions.md R195, R199: `HDR.D code, m` adds -2, -1, +1 or +2, its faults in their
order. -/
def Obligations.HdrDAddsTheCodedDelta : Prop :=
  ∀ (code : BitVec 2) (m : Bool) (s : State) (diff : Int),
    diff = s.bitdepthDiff + (if code = 0 then -2 else if code = 1 then -1 else if code = 2 then 1 else 2) →
    (s.currentBlockExists → s.pos + 4 ≤ s.stream.length → 0 ≤ diff → diff ≤ 15 → diff ≤ s.params.bitdepthReal.toInt →
      ∃ a bc, exec (.hdrD code m) s = .next { s with
          pos := s.pos + 4, bitdepthDiff := diff.toNat, decodingMode := m, lineA := a, lineBC := bc } ∧
        storesHeader s.lineA a s.currentBlockIndex (BitVec.ofNat 4 diff.toNat) ∧
        storesHeader s.lineBC bc s.currentBlockIndex (BitVec.ofNat 4 diff.toNat)) ∧
    (s.pos + 3 > s.stream.length → takesFault (exec (.hdrD code m) s) s .unexpectedEndOfStream) ∧
    (s.pos + 3 ≤ s.stream.length → (diff < 0 ∨ diff > 15 ∨ diff > s.params.bitdepthReal.toInt) →
      takesFault (exec (.hdrD code m) s) s .bitdepthDiffOutOfRange) ∧
    (s.pos + 3 = s.stream.length → 0 ≤ diff → diff ≤ 15 → diff ≤ s.params.bitdepthReal.toInt →
      takesFault (exec (.hdrD code m) s) s .unexpectedEndOfStream)

/-! ### The codewords and the pairs -/

/-- 40_prefix_code.md R81 to R93: each codeword as an instruction returns its class and size, and the machine is otherwise as it
was. The returned pair stands in the model's own field `result` (notes/assumptions/14.md). -/
def Obligations.CodewordsReturnClassAndSize : Prop :=
  ∀ s : State,
    exec .pfx0 s = .next { s with result := .codeword 0 1 } ∧ exec .pfx1 s = .next { s with result := .codeword 1 2 } ∧
    exec .pfx2 s = .next { s with result := .codeword 2 3 } ∧ exec .pfx3 s = .next { s with result := .codeword 3 4 } ∧
    exec .pfx4 s = .next { s with result := .codeword 4 5 } ∧ exec .pfx5 s = .next { s with result := .codeword 5 7 } ∧
    exec .pfx6 s = .next { s with result := .codeword 6 7 } ∧ exec .pfx7 s = .next { s with result := .codeword 7 8 } ∧
    exec .pfx8 s = .next { s with result := .codeword 8 8 } ∧ exec .pfx9 s = .next { s with result := .codeword 9 9 } ∧
    exec .pfx10 s = .next { s with result := .codeword 10 9 } ∧
    exec .pfx11 s = .next { s with result := .codeword 11 9 } ∧
    exec .pfx12 s = .next { s with result := .codeword 12 9 }

/-- 42_block_vl.md R110 to R123: `VLPAIR` on a pair that fits the window and the stream: both contexts, the noise count, the two
samples, the counter and `pos`, and nothing else. -/
def Obligations.VlpairDecodesOnePixelPair : Prop :=
  ∀ (ca : Cls) (lsa : Nat) (cb : Cls) (lsb : Nat) (s : State), s.pairPositionExists →
    let ka := lsbK s.ctxA.g
    let kb := lsbK s.ctxB.g
    let la := if ca = 12 then s.bp.f else ka
    let lb := if cb = 12 then s.bp.f else kb
    let len := prefixSize ca + prefixSize cb + la + lb
    let oldA := s.above s.lineAPrev
    let oldB := s.above (if s.currentLineIndex.toNat % 2 = 0 then s.lineBPrev else s.lineCPrev)
    let M := s.params.maxAllowedPixelValue.toInt
    let va := if ca = 12 then lsa + 1 else (ca.val <<< la) ||| lsa
    let vb := if cb = 12 then lsb + 1 else (cb.val <<< lb) ||| lsb
    let xa := s.bp.b * residualOf va + fixPrediction s.ctxA.lastNew.w1.toNat oldA.toNat s.ctxA.lastOld.w1.toNat
    let xb := s.bp.b * residualOf vb + fixPrediction s.ctxB.lastNew.w1.toNat oldB.toNat s.ctxB.lastOld.w1.toNat
    let pa : Sample := BitVec.ofNat 16 (clamp (unmod xa s.bp.d M s.bp.c s.bp.b) 0 M).toNat
    let pb : Sample := BitVec.ofNat 16 (clamp (unmod xb s.bp.d M s.bp.c s.bp.b) 0 M).toNat
    let quiet := quietPixel s.params
      { s.ctxA with lastNew := { s.ctxA.lastNew with w0 := pa }, lastOld := { s.ctxA.lastOld with w0 := oldA } }
    len ≤ 48 → s.pos + len ≤ s.stream.length →
    ∃ a bc, exec (.vlpair ca lsa cb lsb) s = .next { s with
        ctxA := { g := updateG va ka s.ctxA.g s.params.maxAllowedRawValue.toInt
                  lastNew := ⟨pa, pa, s.ctxA.lastNew.w1⟩
                  lastOld := ⟨oldA, oldA, s.ctxA.lastOld.w1⟩ }
        ctxB := { g := updateG vb kb s.ctxB.g s.params.maxAllowedRawValue.toInt
                  lastNew := ⟨pb, pb, s.ctxB.lastNew.w1⟩
                  lastOld := ⟨oldB, oldB, s.ctxB.lastOld.w1⟩ }
        noiseCount := s.noiseCount + (if quiet then 1 else 0)
        lineA := a
        lineBC := bc
        readValuesCount := s.readValuesCount + 1
        pos := s.pos + len } ∧
      storesSample s.lineA a (s.currentBlockIndex * 16 + s.i) pa ∧
      storesSample s.lineBC bc (s.currentBlockIndex * 16 + s.i) pb

/-- 42_block_vl.md R114, R124, 60_exceptions.md R197, R191, R199: a pair longer than the peek window faults before the
end of the stream is looked at. -/
def Obligations.VlpairFaultsOnWindowThenOnStreamEnd : Prop :=
  ∀ (ca : Cls) (lsa : Nat) (cb : Cls) (lsb : Nat) (s : State), s.pairPositionExists →
    let len := prefixSize ca + prefixSize cb + (if ca = 12 then s.bp.f else lsbK s.ctxA.g) +
      (if cb = 12 then s.bp.f else lsbK s.ctxB.g)
    (len > 48 → takesFault (exec (.vlpair ca lsa cb lsb) s) s .peekWindowExceeded) ∧
    (len ≤ 48 → s.pos + len > s.stream.length →
      takesFault (exec (.vlpair ca lsa cb lsb) s) s .unexpectedEndOfStream) ∧
    (s.bp.f ≤ 15 → len ≤ 48) ∧
    (len > 48 → s.bp.f ≤ 16 → ca = 12 ∧ cb = 12 ∧ s.bp.f = 16)

/-- 43_block_raw.md R130 to R135: `RAWPAIR`: the two samples shifted by `a`, both contexts shifted, slot 0 of B restored, `g`
untouched, no clamp; and its fault. -/
def Obligations.RawpairStoresShiftedSamples : Prop :=
  ∀ (v1 v2 : Nat) (s : State), s.pairPositionExists →
    let oldA := s.above s.lineAPrev
    let oldB := s.above (if s.currentLineIndex.toNat % 2 = 0 then s.lineBPrev else s.lineCPrev)
    let pa : Sample := BitVec.ofNat 16 (v1 * 2 ^ s.bp.a)
    let pb : Sample := BitVec.ofNat 16 (v2 * 2 ^ s.bp.a)
    let quiet := quietPixel s.params
      { s.ctxA with lastNew := { s.ctxA.lastNew with w0 := pa }, lastOld := { s.ctxA.lastOld with w0 := oldA } }
    (s.pos + 2 * s.bp.f ≤ s.stream.length →
      ∃ a bc, exec (.rawpair v1 v2) s = .next { s with
          ctxA := { g := s.ctxA.g, lastNew := ⟨pa, pa, s.ctxA.lastNew.w1⟩, lastOld := ⟨oldA, oldA, s.ctxA.lastOld.w1⟩ }
          ctxB := { g := s.ctxB.g, lastNew := ⟨s.ctxB.lastNew.w0, pb, s.ctxB.lastNew.w1⟩
                    lastOld := ⟨oldB, oldB, s.ctxB.lastOld.w1⟩ }
          noiseCount := s.noiseCount + (if quiet then 1 else 0)
          lineA := a
          lineBC := bc
          readValuesCount := s.readValuesCount + 1
          pos := s.pos + 2 * s.bp.f } ∧
        storesSample s.lineA a (s.currentBlockIndex * 16 + s.i) pa ∧
        storesSample s.lineBC bc (s.currentBlockIndex * 16 + s.i) pb) ∧
    (s.pos + 2 * s.bp.f > s.stream.length → takesFault (exec (.rawpair v1 v2) s) s .unexpectedEndOfStream)

/-- 46_line_decoder.md R170, 20_memory.md R46: `PAD` moves `pos` to the next multiple of 256 or 128 and nowhere when it
is at one; past the end it faults. -/
def Obligations.PadMovesToTheNextBoundary : Prop :=
  ∀ (s : State) (B p : Nat), B = (if s.params.alignMode = 1 then 256 else 128) →
    B ∣ p → s.pos ≤ p → p < s.pos + B →
    (p ≤ s.stream.length → exec .pad s = .next { s with pos := p }) ∧
    (p > s.stream.length → takesFault (exec .pad s) s .unexpectedEndOfStream)

/-! ### The commands -/

/-- 70_reset_and_hazards.md R221, 10_state.md R25, 60_exceptions.md R193: CONSTRUCT with legal Parameters, from every state, gives
every register its reset value; `a .. f` are free values of which nothing is said. With any other Parameters it takes
ParameterOutOfRange: POISONED with that cause, from every state, from POISONED by the model's choice (notes/assumptions/8.md). -/
def Obligations.ConstructResetsTheInstance : Prop :=
  ∀ (P : Parameters) (s : State),
    let legal : Prop :=
      (P.defaultPixValue.toNat : Int) ≤ P.maxAllowedPixelValue.toInt ∧
      0 ≤ P.maxAllowedPixelValue.toInt ∧ P.maxAllowedPixelValue.toInt ≤ 65535 ∧
      P.maxAllowedRawValue.toInt ≥ 4 ∧ P.blocksCount.toInt ≥ 1 ∧
      1 ≤ P.maxValuesCount.toInt ∧ P.maxValuesCount.toInt ≤ P.blocksCount.toInt * 16 ∧
      (P.alignMode = 0 ∨ P.alignMode = 1) ∧
      1 ≤ P.bitdepthReal.toInt ∧ P.bitdepthReal.toInt ≤ 16 ∧ P.bayerPattern.toNat ≤ 3
    let w : Window := ⟨P.defaultPixValue, P.defaultPixValue, P.defaultPixValue⟩
    let line : BlockLine := ⟨P.blocksCount.toInt.toNat, P.defaultPixValue, [], []⟩
    (legal → ∃ bp, exec (.construct P) s = .next { s with
        st := .active, err := .none, params := P, ctxA := ⟨4, w, w⟩, ctxB := ⟨4, w, w⟩, bp := bp, bitdepthDiff := 0,
        decodingMode := false, currentLineIndex := 0, currentBlockIndex := 0, readValuesCount := 0, i := 0,
        noiseLevel := Config.noiseLevelInit, noiseCount := 0, noiseLevels := Config.noiseHistoryInit,
        lineA := line, lineBC := line, lineAPrev := line, lineBPrev := line, lineCPrev := line,
        result := .done, freeCtr := s.freeCtr + 1 }) ∧
    (¬ legal → ∃ t, exec (.construct P) s = .next t ∧ t.st = .poisoned ∧ t.err = .parameterOutOfRange ∧
      t.result = .faulted ∧ t.seq = .command ∧ t.stream = s.stream ∧ t.pos ≤ t.streamLength ∧ t.port = s.port ∧
      t.hookState = s.hookState)

/-- 46_line_decoder.md R169, 70_reset_and_hazards.md R224: READ_NEXT on an ACTIVE instance inside a line, with enough bits ahead, a header in
range and `bitdepth_real <= 15` (no pair can then exceed the window), decodes the block: the counters, the returned
boolean, `pos`, and everything it leaves alone. -/
def Obligations.ReadNextDecodesOneBlock : Prop :=
  ∀ s : State, s.Inv → s.st = .active → s.currentBlockIndex < s.params.blocks → s.params.bitdepthReal.toInt ≤ 15 →
    s.headerInRange → s.pos + 1028 ≤ s.stream.length →
    ∃ t, exec .readNext s = .next t ∧
      t.st = .active ∧ t.err = s.err ∧ t.params = s.params ∧
      t.currentBlockIndex = s.currentBlockIndex + 1 ∧
      t.readValuesCount = min (s.readValuesCount + 16) s.params.valuesPerLine ∧
      t.result = .lineComplete (decide (s.currentBlockIndex + 1 = s.params.blocks)) ∧
      s.pos < t.pos ∧ t.pos ≤ s.pos + 1028 ∧
      (s.currentBlockIndex + 1 = s.params.blocks → s.params.stride = true →
        (if s.params.alignMode = 1 then 256 else 128) ∣ t.pos) ∧
      t.bp = blockParams s.params t.bitdepthDiff ∧
      t.currentLineIndex = s.currentLineIndex ∧ t.noiseLevel = s.noiseLevel ∧ t.noiseLevels = s.noiseLevels ∧
      t.lineAPrev = s.lineAPrev ∧ t.lineBPrev = s.lineBPrev ∧ t.lineCPrev = s.lineCPrev ∧
      t.stream = s.stream ∧ t.port = s.port ∧ t.seq = s.seq ∧ t.freeCtr = s.freeCtr ∧ t.hookState = s.hookState ∧
      (∀ n, (n < s.readValuesCount ∨ t.readValuesCount ≤ n) →
        t.lineA.sampleAt n = s.lineA.sampleAt n ∧ t.lineBC.sampleAt n = s.lineBC.sampleAt n) ∧
      (∀ blk, t.lineA.headerAt blk =
        (if blk = s.currentBlockIndex then BitVec.ofNat 4 t.bitdepthDiff else s.lineA.headerAt blk)) ∧
      (∀ blk, t.lineBC.headerAt blk =
        (if blk = s.currentBlockIndex then BitVec.ofNat 4 t.bitdepthDiff else s.lineBC.headerAt blk))

/-- 46_line_decoder.md R169, 10_state.md R14: READ_NEXT is its elements one after the other. The elements are stepped on their own
(notes/assumptions/1.md) from the block's header; at most 18 of them make a block, and every outcome is the same, the
faults too. -/
def Obligations.ReadNextIsItsElementsInOrder : Prop :=
  ∀ s : State, s.st = .active → s.seq = .command → s.currentBlockIndex < s.params.blocks →
    runElements 18 { s with seq := .header } = exec .readNext s

/-- 46_line_decoder.md R171: READ_LINE is READ_NEXT repeated until the line is complete. -/
def Obligations.ReadLineIsReadNextRepeated : Prop :=
  ∀ s t : State, s.st = .active → s.currentBlockIndex < s.params.blocks → exec .readNext s = .next t →
    (t.st = .poisoned → exec .readLine s = .next t) ∧
    (t.st = .active → t.currentBlockIndex = s.params.blocks → exec .readLine s = .next { t with result := .done }) ∧
    (t.st = .active → t.currentBlockIndex ≠ s.params.blocks → exec .readLine s = exec .readLine t)

/-- 46_line_decoder.md R171, R169, 60_exceptions.md R194: READ_LINE on a lossless line with enough bits ahead completes the line:
every pair of the line is counted. -/
def Obligations.ReadLineCompletesTheLine : Prop :=
  ∀ s : State, s.Inv → s.st = .active → s.currentBlockIndex < s.params.blocks → s.params.lossless = true →
    s.params.bitdepthReal.toInt ≤ 15 →
    s.pos + 769 * (s.params.blocks - s.currentBlockIndex) + 255 ≤ s.stream.length →
    ∃ t, exec .readLine s = .next t ∧ t.st = .active ∧ t.err = s.err ∧ t.params = s.params ∧ t.result = .done ∧
      t.currentBlockIndex = s.params.blocks ∧ t.readValuesCount = s.params.valuesPerLine ∧
      s.pos < t.pos ∧ t.pos ≤ t.stream.length ∧ t.stream = s.stream ∧ t.port = s.port ∧
      t.currentLineIndex = s.currentLineIndex ∧ t.noiseLevel = s.noiseLevel ∧ t.noiseLevels = s.noiseLevels ∧
      t.lineAPrev = s.lineAPrev ∧ t.lineBPrev = s.lineBPrev ∧ t.lineCPrev = s.lineCPrev ∧
      (∀ n, (n < s.readValuesCount ∨ s.params.valuesPerLine ≤ n) →
        t.lineA.sampleAt n = s.lineA.sampleAt n ∧ t.lineBC.sampleAt n = s.lineBC.sampleAt n)

/-- 46_line_decoder.md R172, R173, 45_noise_estimator.md R152, R153: FINALIZE_LINE on a complete line: copies, hooks in their order, roll-up with
the old level passed to the hooks, restart; the whole next state. The hooks are uninterpreted; what each answers stands
in the shape of the buffer it was given (notes/assumptions/7.md). -/
def Obligations.FinalizeLineRotatesHooksAndRestarts : Prop :=
  ∀ s : State, s.st = .active → s.currentBlockIndex = s.params.blocks → s.currentLineIndex.toNat < 2 ^ 32 - 1 →
    let upper : Bool := s.currentLineIndex.toNat % 2 = 0
    let w : Window := ⟨s.params.defaultPixValue, s.params.defaultPixValue, s.params.defaultPixValue⟩
    let ppa := Config.postProcessA s.lineA (isNeededField s) s.noiseLevel s.hookState
    let ppb := Config.postProcessB s.lineBC s.noiseLevel ppa.2
    let ta := Config.truncate (settleAs s.lineA ppa.1) s.params.bitdepthReal 10 ppb.2
    let tb := Config.truncate (if upper then settleAs s.lineBC ppb.1 else s.lineBPrev) s.params.bitdepthReal 10 ta.2
    let tc := Config.truncate (if upper then s.lineCPrev else settleAs s.lineBC ppb.1) s.params.bitdepthReal 10 tb.2
    let est := Config.estimateNoiseLevel s.params.noiseLevel1 s.params.noiseLevel2 s.noiseCount s.noiseLevels tc.2
    exec .finalizeLine s = .next { s with
      lineAPrev := settleAs s.lineA ta.1
      lineBPrev := settleAs (if upper then s.lineBC else s.lineBPrev) tb.1
      lineCPrev := settleAs (if upper then s.lineCPrev else s.lineBC) tc.1
      noiseLevel := est.1.1
      noiseLevels := est.1.2
      hookState := est.2
      currentLineIndex := BitVec.ofNat 32 (s.currentLineIndex.toNat + 1)
      currentBlockIndex := 0
      readValuesCount := 0
      noiseCount := 0
      ctxA := ⟨4, w, w⟩
      ctxB := ⟨4, w, w⟩
      result := .done }

/-- 20_memory.md R53, 46_line_decoder.md R173: a hook's answer stands in its buffer sample for sample and entry for entry, and an answer equal
to a canonical buffer leaves that buffer as it is. -/
def Obligations.HookResultsStandInTheirBuffers : Prop :=
  ∀ shape b : BlockLine,
    (settleAs shape b).wf = true ∧ (settleAs shape b).blocks = shape.blocks ∧ (settleAs shape b).fill = shape.fill ∧
    (∀ n, n < shape.blocks * 16 → (settleAs shape b).sampleAt n = b.sampleAt n) ∧
    (∀ blk, blk < shape.blocks → (settleAs shape b).headerAt blk = b.headerAt blk) ∧
    (b.wf = true → b.blocks = shape.blocks → b.fill = shape.fill → settleAs shape b = b)

/-- 10_state.md R18, 93_implementation_defined.md U9: FINALIZE_LINE is not taken from line index 2^32 - 1. -/
def Obligations.LastLineIndexRefusesFinalize : Prop :=
  ∀ s : State, s.st = .active → s.currentBlockIndex = s.params.blocks → s.currentLineIndex.toNat = 2 ^ 32 - 1 →
    exec .finalizeLine s = .refused .lineIndexOverflow

/-- 46_line_decoder.md R174, R175: LINE_A and LINE_B return `max_values_count` words in flattened order and change nothing. -/
def Obligations.AccessorsReturnTheLine : Prop :=
  ∀ s : State, s.st = .active →
    (s.params.valuesPerLine ≤ 16 * s.lineA.blocks →
      ∃ ws, exec .lineA s = .next { s with result := .words ws } ∧ ws.length = s.params.valuesPerLine ∧
        ∀ n v, n < s.params.valuesPerLine →
          (ws[n]? = some v ↔ memRead s.lineA (n / 16) (n % 16) = .ok v)) ∧
    (s.params.valuesPerLine ≤ 16 * s.lineBC.blocks →
      ∃ ws, exec .lineB s = .next { s with result := .words ws } ∧ ws.length = s.params.valuesPerLine ∧
        ∀ n v, n < s.params.valuesPerLine →
          (ws[n]? = some v ↔ memRead s.lineBC (n / 16) (n % 16) = .ok v))

/-- 60_exceptions.md R192: a reserved code raises NotImplemented unless the instance is poisoned. -/
def Obligations.ReservedCodesRaiseNotImplemented : Prop :=
  ∀ (odd : Bool) (s : State), s.st ≠ .poisoned → takesFault (exec (.reserved odd) s) s .notImplemented

/-! ### Command legality and faults -/

/-- 60_exceptions.md R194: the commands the state does not allow raise InvalidState. -/
def Obligations.DisallowedCommandsRaiseInvalidState : Prop :=
  ∀ s : State,
    (s.st = .unconfigured → ∀ c, c = .readNext ∨ c = .readLine ∨ c = .finalizeLine ∨ c = .lineA ∨ c = .lineB →
      takesFault (exec c s) s .invalidState) ∧
    (s.st = .active → s.params.blocks ≤ s.currentBlockIndex →
      takesFault (exec .readNext s) s .invalidState ∧ takesFault (exec .readLine s) s .invalidState) ∧
    (s.st = .active → s.currentBlockIndex ≠ s.params.blocks → takesFault (exec .finalizeLine s) s .invalidState)

/-- 60_exceptions.md R201, R194, R199: in POISONED every command but CONSTRUCT is refused: only the response says so, nothing else changes. -/
def Obligations.PoisonedInstanceRefusesCommands : Prop :=
  ∀ (s : State) (c : Instr), s.st = .poisoned →
    (c = .readNext ∨ c = .readLine ∨ c = .finalizeLine ∨ c = .lineA ∨ c = .lineB ∨ c = .reserved false ∨ c = .reserved true) →
    exec c s = .next { s with result := .refused }

/-- 60_exceptions.md R201, 10_state.md R16: only CONSTRUCT leaves POISONED, and the first cause stays. -/
def Obligations.OnlyConstructLeavesPoisoned : Prop :=
  ∀ (i : Instr) (s t : State), (∀ P, i ≠ .construct P) → exec i s = .next t → s.st = .poisoned →
    t.st = .poisoned ∧ t.err = s.err

/-- 10_state.md R17, R18: without a fault, only CONSTRUCT changes a Parameter, and only CONSTRUCT and FINALIZE_LINE the line
index; FINALIZE_LINE adds 1. -/
def Obligations.ParametersAndLineIndexHaveTheirWriters : Prop :=
  ∀ (i : Instr) (s t : State), exec i s = .next t → t.st ≠ .poisoned → (∀ P, i ≠ .construct P) →
    t.params = s.params ∧
    (i ≠ .finalizeLine → t.currentLineIndex = s.currentLineIndex) ∧
    (i = .finalizeLine → t.currentLineIndex.toNat = s.currentLineIndex.toNat + 1)

/-- 20_memory.md R40, R47, R59, 46_line_decoder.md R177: no instruction changes the stream or the host's pending actions, and without a fault
`pos` only moves forward. -/
def Obligations.NoInstructionWritesTheStream : Prop :=
  ∀ (i : Instr) (s t : State), exec i s = .next t →
    t.stream = s.stream ∧ t.port = s.port ∧ (t.st ≠ .poisoned → s.pos ≤ t.pos)

/-- 46_line_decoder.md R172, R177, 20_memory.md R49: without a fault, only FINALIZE_LINE and CONSTRUCT write the three previous-line buffers,
the noise level and its history. -/
def Obligations.PreviousLinesAndNoiseLevelHaveTheirWriters : Prop :=
  ∀ (i : Instr) (s t : State), exec i s = .next t → t.st ≠ .poisoned → (∀ P, i ≠ .construct P) → i ≠ .finalizeLine →
    t.lineAPrev = s.lineAPrev ∧ t.lineBPrev = s.lineBPrev ∧ t.lineCPrev = s.lineCPrev ∧
    t.noiseLevel = s.noiseLevel ∧ t.noiseLevels = s.noiseLevels ∧ t.hookState = s.hookState

/-! ### The step and the invariant -/

/-- 70_reset_and_hazards.md R228, R229: between transactions, a step runs the command that is next on the command port, on the state
with that action taken from the port. -/
def Obligations.StepRunsTheCommandOnThePort : Prop :=
  ∀ (s : State) (cmd : BitVec 3) (arg : Parameters) (rest : List HostAction) (i : Instr),
    s.seq = .command → s.port = .command cmd arg :: rest → decode .port (.port cmd arg) = .ok i →
    step s = exec i { s with port := rest }

/-- 10_state.md R14, 46_line_decoder.md R177: inside a transaction, a step runs the element the bits at `pos` decode to, and then the sequencer goes on
from its next state. A fault of the model stays one, and no element is refused. -/
def Obligations.StepRunsTheElementAtPos : Prop :=
  ∀ (s : State) (i : Instr), s.seq ≠ .command → decode (fetchCtx s) (.bits (s.stream.drop s.pos)) = .ok i →
    wellFormed (fetchCtx s) i = true →
    (∀ t, exec i s = .next t → step s = .next (advance t)) ∧
    (∀ f, exec i s = .fault f → step s = .fault f) ∧ (∀ r, step s ≠ .refused r)

/-- 30_encoding.md R73, 70_reset_and_hazards.md R229: every stream parses. At any element, in any state and whatever the bits are,
the decoder gives a stream element. It is well formed in its place, where a raw pair needs the `f` of a block
(41_block_parameters.md R105), and a VL pair needs it and, with `f = 16`, a component that is no escape (60_exceptions.md R197). -/
def Obligations.EveryBitStringParses : Prop :=
  ∀ (s : State) (bs : List Bool), s.seq ≠ .command →
    ∃ i, decode (fetchCtx s) (.bits bs) = .ok i ∧ commandCode i = none ∧
      (s.seq ≠ .pair → wellFormed (fetchCtx s) i = true) ∧
      (s.seq = .pair → s.decodingMode = true → s.bp.f ≤ 16 → wellFormed (fetchCtx s) i = true) ∧
      (s.seq = .pair → s.decodingMode = false → s.bp.f ≤ 15 → wellFormed (fetchCtx s) i = true) ∧
      (s.seq = .pair → s.decodingMode = false → s.bp.f = 16 →
        (wellFormed (fetchCtx s) i = true ↔ ∀ lsa lsb, i ≠ .vlpair 12 lsa 12 lsb))

/-- 20_memory.md R47, R40: between transactions the host presents a stream; nothing else changes. A position beyond the end is no
stream position and is refused. -/
def Obligations.HostPresentsAStreamBetweenTransactions : Prop :=
  ∀ (s : State) (bits : List Bool) (p : Nat) (rest : List HostAction), s.seq = .command → s.port = .present bits p :: rest →
    (p ≤ bits.length → step s = .next { s with stream := bits, pos := p, port := rest }) ∧
    (bits.length < p → step s = .refused .streamPositionBeyondEnd)

/-- 70_reset_and_hazards.md R220, 10_state.md R25: power-on is UNCONFIGURED with `err` 0, and meets the invariant. -/
def Obligations.PowerOnMeetsTheInvariant : Prop :=
  State.reset.st = .unconfigured ∧ State.reset.err = .none ∧ State.reset.Inv

/-- 10_state.md R11 to R24, 60_exceptions.md R196, R201: the invariant between transactions is kept by every step. -/
def Obligations.EveryStepKeepsTheInvariant : Prop :=
  ∀ s t : State, s.Inv → step s = .next t → t.Inv

/-- 20_memory.md R50, 70_reset_and_hazards.md R223, R229: between transactions no step ends in a fault of the model, and it is refused only for the last
line index or for a stream position beyond the end. -/
def Obligations.NoStepFaultsBetweenTransactions : Prop :=
  ∀ s : State, s.Inv →
    (∀ f, step s ≠ .fault f) ∧
    (∀ r, step s = .refused r → r = .lineIndexOverflow ∨ r = .streamPositionBeyondEnd)

/-- 10_state.md R24 (fourth row's count), R15, 95_test_vectors.md property 4: in every state that meets the invariant, a complete
line has all its pairs counted. -/
def Obligations.CompleteLineHasAllItsPairs : Prop :=
  ∀ s t : State, s.Inv → s.st = .active → exec .readNext s = .next t → t.st = .active →
    t.result = .lineComplete true → t.readValuesCount = s.params.valuesPerLine ∧ t.currentBlockIndex = s.params.blocks

/-- 10_state.md R16, 60_exceptions.md R190: the numbers that `st` and `err` have on the response port. -/
def Obligations.CauseAndStatusHaveTheirNumbers : Prop :=
  Status.unconfigured.code = 0 ∧ Status.active.code = 1 ∧ Status.poisoned.code = 2 ∧
  ErrCode.none.code = 0 ∧ ErrCode.unexpectedEndOfStream.code = 1 ∧ ErrCode.parameterOutOfRange.code = 2 ∧
  ErrCode.notImplemented.code = 3 ∧ ErrCode.invalidState.code = 4 ∧ ErrCode.bitdepthDiffOutOfRange.code = 5 ∧
  ErrCode.peekWindowExceeded.code = 6
end

