-- ==== Sys2Proof/Laws/Memory.lean ====
section
/-! SUPPORT. The laws of the sparse memory and of the line buffers: what is read after a write, that every operation keeps the
canonical form, and that a canonical memory is determined by what it reads as. -/

namespace Sys2Proof.Machine

section Cells

variable {α : Type} [DecidableEq α] {dflt : α} {bound : Nat}

theorem cellsOk_cons {lo k : Nat} {v : α} {m : List (Nat × α)} :
    cellsOk dflt bound lo ((k, v) :: m) = true ↔
      lo ≤ k ∧ k < bound ∧ v ≠ dflt ∧ cellsOk dflt bound (k + 1) m = true := by
  simp [cellsOk, and_assoc]

theorem cellsOk_mono {lo lo' : Nat} {m : List (Nat × α)} (h : cellsOk dflt bound lo m = true) (hl : lo' ≤ lo) :
    cellsOk dflt bound lo' m = true := by
  cases m with
  | nil => rfl
  | cons c m =>
    obtain ⟨k, v⟩ := c
    rw [cellsOk_cons] at h ⊢
    exact ⟨by omega, h.2⟩

/-- Below its first address a canonical memory reads as the default. -/
theorem readCell_below {lo n : Nat} {m : List (Nat × α)} (h : cellsOk dflt bound lo m = true) (hn : n < lo) :
    readCell dflt m n = dflt := by
  induction m generalizing lo with
  | nil => rfl
  | cons c m ih =>
    obtain ⟨k, v⟩ := c
    rw [cellsOk_cons] at h
    rw [readCell, if_neg (by omega), ih h.2.2.2 (by omega)]

/-- At and above its bound a canonical memory reads as the default. -/
theorem readCell_above {lo n : Nat} {m : List (Nat × α)} (h : cellsOk dflt bound lo m = true) (hn : bound ≤ n) :
    readCell dflt m n = dflt := by
  induction m generalizing lo with
  | nil => rfl
  | cons c m ih =>
    obtain ⟨k, v⟩ := c
    rw [cellsOk_cons] at h
    rw [readCell, if_neg (by omega), ih h.2.2.2]

/-- Read after write: the written address holds the value, every other address what it held. -/
theorem readCell_writeCell {lo : Nat} {m : List (Nat × α)} (h : cellsOk dflt bound lo m = true) (a : Nat) (v : α)
    (n : Nat) : readCell dflt (writeCell dflt m a v) n = if n = a then v else readCell dflt m n := by
  induction m generalizing lo with
  | nil =>
    simp only [writeCell]
    split
    · next hv => simp [readCell, hv]
    · simp only [readCell, @eq_comm _ a n]
  | cons c m ih =>
    obtain ⟨k, x⟩ := c
    have h' := cellsOk_cons.mp h
    simp only [writeCell]
    split
    · next hak =>
      split
      · next hv =>
        by_cases hn : n = a
        · rw [if_pos hn, readCell_below (cellsOk_mono (lo' := k) (by
            rw [cellsOk_cons]; exact ⟨Nat.le_refl k, h'.2⟩) (Nat.le_refl k)) (by omega), hv]
        · rw [if_neg hn]
      · rw [readCell]
        by_cases hn : n = a
        · simp [hn]
        · rw [if_neg (by omega), if_neg hn]
    · next hak =>
      split
      · next hk =>
        split
        · next hv =>
          by_cases hn : n = a
          · rw [if_pos hn, hv]
            exact readCell_below h'.2.2.2 (by omega)
          · rw [if_neg hn, readCell, if_neg (by omega)]
        · by_cases hn : n = a
          · simp [readCell, hn]
          · rw [if_neg hn, readCell, readCell, if_neg (by omega), if_neg (by omega)]
      · next hk =>
        rw [readCell, readCell, ih h'.2.2.2]
        by_cases hkn : k = n
        · rw [if_pos hkn, if_neg (by omega), if_pos hkn]
        · rw [if_neg hkn, if_neg hkn]

/-- A write below the bound keeps the canonical form. -/
theorem cellsOk_writeCell {lo a : Nat} {m : List (Nat × α)} (h : cellsOk dflt bound lo m = true) (hl : lo ≤ a)
    (ha : a < bound) (v : α) : cellsOk dflt bound lo (writeCell dflt m a v) = true := by
  induction m generalizing lo with
  | nil =>
    simp only [writeCell]
    split
    · rfl
    · next hv => exact cellsOk_cons.mpr ⟨hl, ha, hv, rfl⟩
  | cons c m ih =>
    obtain ⟨k, x⟩ := c
    have h' := cellsOk_cons.mp h
    simp only [writeCell]
    split
    · split
      · exact h
      · next hv => exact cellsOk_cons.mpr ⟨hl, ha, hv, cellsOk_cons.mpr ⟨by omega, h'.2⟩⟩
    · split
      · split
        · exact cellsOk_mono h'.2.2.2 (by omega)
        · next hk hv => exact cellsOk_cons.mpr ⟨hl, ha, hv, by rw [hk]; exact h'.2.2.2⟩
      · exact cellsOk_cons.mpr ⟨h'.1, h'.2.1, h'.2.2.1, ih h'.2.2.2 (by omega)⟩

theorem cellsOk_tabulate_from (f : Nat → α) (lo n : Nat) (hb : lo + n ≤ bound) :
    cellsOk dflt bound lo (tabulate dflt f lo n) = true := by
  induction n generalizing lo with
  | zero => rfl
  | succ n ih =>
    have ih' := ih (lo + 1) (by omega)
    rw [tabulate]
    split
    · exact cellsOk_mono ih' (by omega)
    · next hv => exact cellsOk_cons.mpr ⟨Nat.le_refl lo, by omega, hv, ih'⟩

/-- A tabulated memory is canonical. -/
theorem cellsOk_tabulate (f : Nat → α) (n : Nat) : cellsOk dflt n 0 (tabulate dflt f 0 n) = true :=
  cellsOk_tabulate_from f 0 n (by omega)

theorem readCell_tabulate_from (f : Nat → α) (lo n a : Nat) :
    readCell dflt (tabulate dflt f lo n) a = if lo ≤ a ∧ a < lo + n then f a else dflt := by
  induction n generalizing lo with
  | zero => rw [if_neg (by omega)]; rfl
  | succ n ih =>
    rw [tabulate]
    split
    · next hv =>
      rw [ih]
      by_cases ha : a = lo
      · subst ha
        rw [if_neg (by omega), if_pos (by omega), hv]
      · by_cases h2 : lo + 1 ≤ a ∧ a < lo + 1 + n
        · rw [if_pos h2, if_pos (by omega)]
        · rw [if_neg h2, if_neg (by omega)]
    · rw [readCell, ih]
      by_cases ha : lo = a
      · subst ha
        rw [if_pos rfl, if_pos (by omega)]
      · rw [if_neg ha]
        by_cases h2 : lo + 1 ≤ a ∧ a < lo + 1 + n
        · rw [if_pos h2, if_pos (by omega)]
        · rw [if_neg h2, if_neg (by omega)]

/-- A tabulated memory reads as its function below its size and as the default beyond. -/
theorem readCell_tabulate (f : Nat → α) (n a : Nat) :
    readCell dflt (tabulate dflt f 0 n) a = if a < n then f a else dflt := by
  rw [readCell_tabulate_from]
  by_cases h : a < n
  · rw [if_pos (by omega), if_pos h]
  · rw [if_neg (by omega), if_neg h]

theorem tabulate_congr {f g : Nat → α} {lo n : Nat} (h : ∀ a, lo ≤ a → a < lo + n → f a = g a) :
    tabulate dflt f lo n = tabulate dflt g lo n := by
  induction n generalizing lo with
  | zero => rfl
  | succ n ih =>
    rw [tabulate, tabulate, h lo (by omega) (by omega), ih (fun a h1 h2 => h a (by omega) (by omega))]

theorem tabulate_readCell_from {lo n : Nat} {m : List (Nat × α)} (h : cellsOk dflt (lo + n) lo m = true) :
    tabulate dflt (readCell dflt m) lo n = m := by
  induction n generalizing lo m with
  | zero =>
    cases m with
    | nil => rfl
    | cons c m =>
      obtain ⟨k, v⟩ := c
      have := cellsOk_cons.mp h
      omega
  | succ n ih =>
    cases m with
    | nil =>
      have := ih (lo := lo + 1) (m := []) rfl
      rw [tabulate]
      simpa [readCell] using this
    | cons c m =>
      obtain ⟨k, v⟩ := c
      have h' := cellsOk_cons.mp h
      by_cases hk : k = lo
      · subst hk
        have hm : cellsOk dflt (k + 1 + n) (k + 1) m = true := by
          rw [show k + 1 + n = k + (n + 1) by omega]; exact h'.2.2.2
        rw [tabulate, readCell, if_pos rfl, if_neg h'.2.2.1]
        congr 1
        rw [← ih hm]
        apply tabulate_congr
        intro a h1 h2
        rw [readCell, if_neg (by omega), ih hm]
      · rw [tabulate, if_pos (readCell_below (lo := lo + 1) (bound := lo + (n + 1))
          (cellsOk_cons.mpr ⟨by omega, h'.2⟩) (by omega))]
        exact ih (by rw [show lo + 1 + n = lo + (n + 1) by omega]; exact cellsOk_cons.mpr ⟨by omega, h'.2⟩)

/-- A canonical memory is determined by what it reads as. -/
theorem tabulate_readCell {n : Nat} {m : List (Nat × α)} (h : cellsOk dflt n 0 m = true) :
    tabulate dflt (readCell dflt m) 0 n = m :=
  tabulate_readCell_from (by rw [Nat.zero_add]; exact h)

end Cells

/-! ### Line buffers -/

theorem wf_iff (b : BlockLine) :
    b.wf = true ↔ cellsOk b.fill b.size 0 b.samples = true ∧ cellsOk (0 : HdrVal) b.blocks 0 b.headers = true := by
  simp [BlockLine.wf]

theorem wf_blankLine (blocks : Nat) (fill : Sample) : (blankLine blocks fill).wf = true := rfl

@[simp] theorem sampleAt_blankLine (blocks : Nat) (fill : Sample) (n : Nat) :
    (blankLine blocks fill).sampleAt n = fill := rfl

@[simp] theorem headerAt_blankLine (blocks : Nat) (fill : Sample) (n : Nat) :
    (blankLine blocks fill).headerAt n = 0 := rfl

theorem sampleKey_lt {b : BlockLine} {blk i : Nat} (hb : blk < b.blocks) (hi : i < Config.blockSize) :
    sampleKey blk i < b.size := by
  have : (blk + 1) * Config.blockSize ≤ b.blocks * Config.blockSize := Nat.mul_le_mul_right _ hb
  simp only [sampleKey, BlockLine.size, Config.blockSize] at *
  omega

theorem sampleKey_inj {blk i blk' i' : Nat} (hi : i < Config.blockSize) (hi' : i' < Config.blockSize)
    (h : sampleKey blk i = sampleKey blk' i') : blk = blk' ∧ i = i' := by
  simp only [sampleKey, Config.blockSize] at *
  omega

/-- What a load answers. -/
theorem memRead_ok_iff {b : BlockLine} {blk i : Nat} {v : Sample} :
    memRead b blk i = .ok v ↔ (blk < b.blocks ∧ i < Config.blockSize) ∧ v = b.sampleAt (sampleKey blk i) := by
  unfold memRead
  split
  · next h => simp [h, eq_comm]
  · next h => simp [h]

theorem memRead_ok {b : BlockLine} {blk i : Nat} (hb : blk < b.blocks) (hi : i < Config.blockSize) :
    memRead b blk i = .ok (b.sampleAt (sampleKey blk i)) :=
  memRead_ok_iff.mpr ⟨⟨hb, hi⟩, rfl⟩

/-- What a sample store can do. -/
theorem memWrite_ok_iff {b b' : BlockLine} {blk i : Nat} {v : Sample} :
    memWrite b blk i v = .ok b' ↔ (blk < b.blocks ∧ i < Config.blockSize) ∧
      b' = { b with samples := writeCell b.fill b.samples (sampleKey blk i) v } := by
  unfold memWrite
  split
  · next h => simp [h, eq_comm]
  · next h => simp [h]

theorem memWrite_ok {b : BlockLine} {blk i : Nat} (v : Sample) (hb : blk < b.blocks) (hi : i < Config.blockSize) :
    memWrite b blk i v = .ok { b with samples := writeCell b.fill b.samples (sampleKey blk i) v } :=
  memWrite_ok_iff.mpr ⟨⟨hb, hi⟩, rfl⟩

theorem memWrite_wf {b b' : BlockLine} {blk i : Nat} {v : Sample} (hw : b.wf = true)
    (h : memWrite b blk i v = .ok b') : b'.wf = true := by
  obtain ⟨⟨hb, hi⟩, rfl⟩ := memWrite_ok_iff.mp h
  rw [wf_iff] at hw ⊢
  exact ⟨cellsOk_writeCell hw.1 (Nat.zero_le _) (sampleKey_lt hb hi) v, hw.2⟩

theorem memWrite_sampleAt {b b' : BlockLine} {blk i : Nat} {v : Sample} (hw : b.wf = true)
    (h : memWrite b blk i v = .ok b') (n : Nat) :
    b'.sampleAt n = if n = sampleKey blk i then v else b.sampleAt n := by
  obtain ⟨-, rfl⟩ := memWrite_ok_iff.mp h
  exact readCell_writeCell ((wf_iff b).mp hw).1 _ v n

theorem memWrite_shape {b b' : BlockLine} {blk i : Nat} {v : Sample} (h : memWrite b blk i v = .ok b') :
    b'.blocks = b.blocks ∧ b'.fill = b.fill ∧ b'.headers = b.headers := by
  obtain ⟨-, rfl⟩ := memWrite_ok_iff.mp h
  exact ⟨rfl, rfl, rfl⟩

/-- What a header store can do. -/
theorem hdrWrite_ok_iff {b b' : BlockLine} {blk : Nat} {v : HdrVal} :
    hdrWrite b blk v = .ok b' ↔ blk < b.blocks ∧ b' = { b with headers := writeCell 0 b.headers blk v } := by
  unfold hdrWrite
  split
  · next h => simp [h, eq_comm]
  · next h => simp [h]

theorem hdrWrite_ok {b : BlockLine} {blk : Nat} (v : HdrVal) (hb : blk < b.blocks) :
    hdrWrite b blk v = .ok { b with headers := writeCell 0 b.headers blk v } :=
  hdrWrite_ok_iff.mpr ⟨hb, rfl⟩

theorem hdrWrite_wf {b b' : BlockLine} {blk : Nat} {v : HdrVal} (hw : b.wf = true)
    (h : hdrWrite b blk v = .ok b') : b'.wf = true := by
  obtain ⟨hb, rfl⟩ := hdrWrite_ok_iff.mp h
  rw [wf_iff] at hw ⊢
  exact ⟨hw.1, cellsOk_writeCell hw.2 (Nat.zero_le _) hb v⟩

theorem hdrWrite_headerAt {b b' : BlockLine} {blk : Nat} {v : HdrVal} (hw : b.wf = true)
    (h : hdrWrite b blk v = .ok b') (n : Nat) :
    b'.headerAt n = if n = blk then v else b.headerAt n := by
  obtain ⟨-, rfl⟩ := hdrWrite_ok_iff.mp h
  exact readCell_writeCell ((wf_iff b).mp hw).2 _ v n

theorem hdrWrite_shape {b b' : BlockLine} {blk : Nat} {v : HdrVal} (h : hdrWrite b blk v = .ok b') :
    b'.blocks = b.blocks ∧ b'.fill = b.fill ∧ b'.samples = b.samples := by
  obtain ⟨-, rfl⟩ := hdrWrite_ok_iff.mp h
  exact ⟨rfl, rfl, rfl⟩

/-- What an accessor answers. -/
theorem snapshot_ok_iff {b : BlockLine} {n : Nat} {ws : List Sample} :
    snapshot b n = .ok ws ↔ n ≤ b.size ∧ ws = (List.range n).map b.sampleAt := by
  unfold snapshot
  split
  · next h => simp [h, eq_comm]
  · next h => simp [h]

/-! ### A hook's answer in its buffer -/

@[simp] theorem settleAs_blocks (shape b : BlockLine) : (settleAs shape b).blocks = shape.blocks := rfl
@[simp] theorem settleAs_fill (shape b : BlockLine) : (settleAs shape b).fill = shape.fill := rfl
@[simp] theorem settleAs_settleAs (shape b c : BlockLine) : settleAs (settleAs shape b) c = settleAs shape c := rfl

/-- A settled buffer is canonical. -/
theorem settleAs_wf (shape b : BlockLine) : (settleAs shape b).wf = true :=
  (wf_iff _).mpr ⟨cellsOk_tabulate _ _, cellsOk_tabulate _ _⟩

theorem settleAs_sampleAt (shape b : BlockLine) (n : Nat) :
    (settleAs shape b).sampleAt n = if n < shape.size then b.sampleAt n else shape.fill :=
  readCell_tabulate _ _ _

theorem settleAs_headerAt (shape b : BlockLine) (n : Nat) :
    (settleAs shape b).headerAt n = if n < shape.blocks then b.headerAt n else 0 :=
  readCell_tabulate _ _ _

theorem freeBuffer_wf (k slot : Nat) : (freeBuffer k slot).wf = true := settleAs_wf _ _

/-! ### The whole memory -/

theorem memoryWf_iff (s : State) :
    s.memoryWf = true ↔ s.lineA.wf = true ∧ s.lineBC.wf = true ∧ s.lineAPrev.wf = true ∧ s.lineBPrev.wf = true ∧
      s.lineCPrev.wf = true := by
  simp [State.memoryWf, and_assoc]

/-- The memory at power-on is canonical. -/
theorem memoryWf_reset : State.reset.memoryWf = true := rfl

/-- Fault entry leaves canonical buffers. -/
theorem memoryWf_raise (e : ErrCode) (s : State) : (raise e s).memoryWf = true :=
  (memoryWf_iff _).mpr
    ⟨freeBuffer_wf _ _, freeBuffer_wf _ _, freeBuffer_wf _ _, freeBuffer_wf _ _, freeBuffer_wf _ _⟩

end Sys2Proof.Machine
end

