-- ==== Sys2Proof/Laws/State.lean ====
section
/-! SUPPORT. One lemma per field for each update of `Machine/State.lean`, each true by rfl, so that no proof unfolds a record
update. -/

namespace Sys2Proof.Machine

variable (s : State)

/-! ### atPos -/

@[simp] theorem atPos_st (p : Nat) : (s.atPos p).st = s.st := rfl
@[simp] theorem atPos_err (p : Nat) : (s.atPos p).err = s.err := rfl
@[simp] theorem atPos_params (p : Nat) : (s.atPos p).params = s.params := rfl
@[simp] theorem atPos_ctxA (p : Nat) : (s.atPos p).ctxA = s.ctxA := rfl
@[simp] theorem atPos_ctxB (p : Nat) : (s.atPos p).ctxB = s.ctxB := rfl
@[simp] theorem atPos_bp (p : Nat) : (s.atPos p).bp = s.bp := rfl
@[simp] theorem atPos_bitdepthDiff (p : Nat) : (s.atPos p).bitdepthDiff = s.bitdepthDiff := rfl
@[simp] theorem atPos_decodingMode (p : Nat) : (s.atPos p).decodingMode = s.decodingMode := rfl
@[simp] theorem atPos_currentLineIndex (p : Nat) : (s.atPos p).currentLineIndex = s.currentLineIndex := rfl
@[simp] theorem atPos_currentBlockIndex (p : Nat) : (s.atPos p).currentBlockIndex = s.currentBlockIndex := rfl
@[simp] theorem atPos_readValuesCount (p : Nat) : (s.atPos p).readValuesCount = s.readValuesCount := rfl
@[simp] theorem atPos_i (p : Nat) : (s.atPos p).i = s.i := rfl
@[simp] theorem atPos_noiseLevel (p : Nat) : (s.atPos p).noiseLevel = s.noiseLevel := rfl
@[simp] theorem atPos_noiseCount (p : Nat) : (s.atPos p).noiseCount = s.noiseCount := rfl
@[simp] theorem atPos_noiseLevels (p : Nat) : (s.atPos p).noiseLevels = s.noiseLevels := rfl
@[simp] theorem atPos_lineA (p : Nat) : (s.atPos p).lineA = s.lineA := rfl
@[simp] theorem atPos_lineBC (p : Nat) : (s.atPos p).lineBC = s.lineBC := rfl
@[simp] theorem atPos_lineAPrev (p : Nat) : (s.atPos p).lineAPrev = s.lineAPrev := rfl
@[simp] theorem atPos_lineBPrev (p : Nat) : (s.atPos p).lineBPrev = s.lineBPrev := rfl
@[simp] theorem atPos_lineCPrev (p : Nat) : (s.atPos p).lineCPrev = s.lineCPrev := rfl
@[simp] theorem atPos_stream (p : Nat) : (s.atPos p).stream = s.stream := rfl
@[simp] theorem atPos_pos (p : Nat) : (s.atPos p).pos = p := rfl
@[simp] theorem atPos_port (p : Nat) : (s.atPos p).port = s.port := rfl
@[simp] theorem atPos_seq (p : Nat) : (s.atPos p).seq = s.seq := rfl
@[simp] theorem atPos_result (p : Nat) : (s.atPos p).result = s.result := rfl
@[simp] theorem atPos_freeCtr (p : Nat) : (s.atPos p).freeCtr = s.freeCtr := rfl
@[simp] theorem atPos_hookState (p : Nat) : (s.atPos p).hookState = s.hookState := rfl

/-! ### withDiff -/

@[simp] theorem withDiff_st (d : Nat) : (s.withDiff d).st = s.st := rfl
@[simp] theorem withDiff_err (d : Nat) : (s.withDiff d).err = s.err := rfl
@[simp] theorem withDiff_params (d : Nat) : (s.withDiff d).params = s.params := rfl
@[simp] theorem withDiff_ctxA (d : Nat) : (s.withDiff d).ctxA = s.ctxA := rfl
@[simp] theorem withDiff_ctxB (d : Nat) : (s.withDiff d).ctxB = s.ctxB := rfl
@[simp] theorem withDiff_bp (d : Nat) : (s.withDiff d).bp = s.bp := rfl
@[simp] theorem withDiff_bitdepthDiff (d : Nat) : (s.withDiff d).bitdepthDiff = d := rfl
@[simp] theorem withDiff_decodingMode (d : Nat) : (s.withDiff d).decodingMode = s.decodingMode := rfl
@[simp] theorem withDiff_currentLineIndex (d : Nat) : (s.withDiff d).currentLineIndex = s.currentLineIndex := rfl
@[simp] theorem withDiff_currentBlockIndex (d : Nat) : (s.withDiff d).currentBlockIndex = s.currentBlockIndex := rfl
@[simp] theorem withDiff_readValuesCount (d : Nat) : (s.withDiff d).readValuesCount = s.readValuesCount := rfl
@[simp] theorem withDiff_i (d : Nat) : (s.withDiff d).i = s.i := rfl
@[simp] theorem withDiff_noiseLevel (d : Nat) : (s.withDiff d).noiseLevel = s.noiseLevel := rfl
@[simp] theorem withDiff_noiseCount (d : Nat) : (s.withDiff d).noiseCount = s.noiseCount := rfl
@[simp] theorem withDiff_noiseLevels (d : Nat) : (s.withDiff d).noiseLevels = s.noiseLevels := rfl
@[simp] theorem withDiff_lineA (d : Nat) : (s.withDiff d).lineA = s.lineA := rfl
@[simp] theorem withDiff_lineBC (d : Nat) : (s.withDiff d).lineBC = s.lineBC := rfl
@[simp] theorem withDiff_lineAPrev (d : Nat) : (s.withDiff d).lineAPrev = s.lineAPrev := rfl
@[simp] theorem withDiff_lineBPrev (d : Nat) : (s.withDiff d).lineBPrev = s.lineBPrev := rfl
@[simp] theorem withDiff_lineCPrev (d : Nat) : (s.withDiff d).lineCPrev = s.lineCPrev := rfl
@[simp] theorem withDiff_stream (d : Nat) : (s.withDiff d).stream = s.stream := rfl
@[simp] theorem withDiff_pos (d : Nat) : (s.withDiff d).pos = s.pos := rfl
@[simp] theorem withDiff_port (d : Nat) : (s.withDiff d).port = s.port := rfl
@[simp] theorem withDiff_seq (d : Nat) : (s.withDiff d).seq = s.seq := rfl
@[simp] theorem withDiff_result (d : Nat) : (s.withDiff d).result = s.result := rfl
@[simp] theorem withDiff_freeCtr (d : Nat) : (s.withDiff d).freeCtr = s.freeCtr := rfl
@[simp] theorem withDiff_hookState (d : Nat) : (s.withDiff d).hookState = s.hookState := rfl

/-! ### withMode -/

@[simp] theorem withMode_st (m : Bool) : (s.withMode m).st = s.st := rfl
@[simp] theorem withMode_err (m : Bool) : (s.withMode m).err = s.err := rfl
@[simp] theorem withMode_params (m : Bool) : (s.withMode m).params = s.params := rfl
@[simp] theorem withMode_ctxA (m : Bool) : (s.withMode m).ctxA = s.ctxA := rfl
@[simp] theorem withMode_ctxB (m : Bool) : (s.withMode m).ctxB = s.ctxB := rfl
@[simp] theorem withMode_bp (m : Bool) : (s.withMode m).bp = s.bp := rfl
@[simp] theorem withMode_bitdepthDiff (m : Bool) : (s.withMode m).bitdepthDiff = s.bitdepthDiff := rfl
@[simp] theorem withMode_decodingMode (m : Bool) : (s.withMode m).decodingMode = m := rfl
@[simp] theorem withMode_currentLineIndex (m : Bool) : (s.withMode m).currentLineIndex = s.currentLineIndex := rfl
@[simp] theorem withMode_currentBlockIndex (m : Bool) : (s.withMode m).currentBlockIndex = s.currentBlockIndex := rfl
@[simp] theorem withMode_readValuesCount (m : Bool) : (s.withMode m).readValuesCount = s.readValuesCount := rfl
@[simp] theorem withMode_i (m : Bool) : (s.withMode m).i = s.i := rfl
@[simp] theorem withMode_noiseLevel (m : Bool) : (s.withMode m).noiseLevel = s.noiseLevel := rfl
@[simp] theorem withMode_noiseCount (m : Bool) : (s.withMode m).noiseCount = s.noiseCount := rfl
@[simp] theorem withMode_noiseLevels (m : Bool) : (s.withMode m).noiseLevels = s.noiseLevels := rfl
@[simp] theorem withMode_lineA (m : Bool) : (s.withMode m).lineA = s.lineA := rfl
@[simp] theorem withMode_lineBC (m : Bool) : (s.withMode m).lineBC = s.lineBC := rfl
@[simp] theorem withMode_lineAPrev (m : Bool) : (s.withMode m).lineAPrev = s.lineAPrev := rfl
@[simp] theorem withMode_lineBPrev (m : Bool) : (s.withMode m).lineBPrev = s.lineBPrev := rfl
@[simp] theorem withMode_lineCPrev (m : Bool) : (s.withMode m).lineCPrev = s.lineCPrev := rfl
@[simp] theorem withMode_stream (m : Bool) : (s.withMode m).stream = s.stream := rfl
@[simp] theorem withMode_pos (m : Bool) : (s.withMode m).pos = s.pos := rfl
@[simp] theorem withMode_port (m : Bool) : (s.withMode m).port = s.port := rfl
@[simp] theorem withMode_seq (m : Bool) : (s.withMode m).seq = s.seq := rfl
@[simp] theorem withMode_result (m : Bool) : (s.withMode m).result = s.result := rfl
@[simp] theorem withMode_freeCtr (m : Bool) : (s.withMode m).freeCtr = s.freeCtr := rfl
@[simp] theorem withMode_hookState (m : Bool) : (s.withMode m).hookState = s.hookState := rfl

/-! ### withLines -/

@[simp] theorem withLines_st (a bc : BlockLine) : (s.withLines a bc).st = s.st := rfl
@[simp] theorem withLines_err (a bc : BlockLine) : (s.withLines a bc).err = s.err := rfl
@[simp] theorem withLines_params (a bc : BlockLine) : (s.withLines a bc).params = s.params := rfl
@[simp] theorem withLines_ctxA (a bc : BlockLine) : (s.withLines a bc).ctxA = s.ctxA := rfl
@[simp] theorem withLines_ctxB (a bc : BlockLine) : (s.withLines a bc).ctxB = s.ctxB := rfl
@[simp] theorem withLines_bp (a bc : BlockLine) : (s.withLines a bc).bp = s.bp := rfl
@[simp] theorem withLines_bitdepthDiff (a bc : BlockLine) : (s.withLines a bc).bitdepthDiff = s.bitdepthDiff := rfl
@[simp] theorem withLines_decodingMode (a bc : BlockLine) : (s.withLines a bc).decodingMode = s.decodingMode := rfl
@[simp] theorem withLines_currentLineIndex (a bc : BlockLine) : (s.withLines a bc).currentLineIndex = s.currentLineIndex := rfl
@[simp] theorem withLines_currentBlockIndex (a bc : BlockLine) : (s.withLines a bc).currentBlockIndex = s.currentBlockIndex := rfl
@[simp] theorem withLines_readValuesCount (a bc : BlockLine) : (s.withLines a bc).readValuesCount = s.readValuesCount := rfl
@[simp] theorem withLines_i (a bc : BlockLine) : (s.withLines a bc).i = s.i := rfl
@[simp] theorem withLines_noiseLevel (a bc : BlockLine) : (s.withLines a bc).noiseLevel = s.noiseLevel := rfl
@[simp] theorem withLines_noiseCount (a bc : BlockLine) : (s.withLines a bc).noiseCount = s.noiseCount := rfl
@[simp] theorem withLines_noiseLevels (a bc : BlockLine) : (s.withLines a bc).noiseLevels = s.noiseLevels := rfl
@[simp] theorem withLines_lineA (a bc : BlockLine) : (s.withLines a bc).lineA = a := rfl
@[simp] theorem withLines_lineBC (a bc : BlockLine) : (s.withLines a bc).lineBC = bc := rfl
@[simp] theorem withLines_lineAPrev (a bc : BlockLine) : (s.withLines a bc).lineAPrev = s.lineAPrev := rfl
@[simp] theorem withLines_lineBPrev (a bc : BlockLine) : (s.withLines a bc).lineBPrev = s.lineBPrev := rfl
@[simp] theorem withLines_lineCPrev (a bc : BlockLine) : (s.withLines a bc).lineCPrev = s.lineCPrev := rfl
@[simp] theorem withLines_stream (a bc : BlockLine) : (s.withLines a bc).stream = s.stream := rfl
@[simp] theorem withLines_pos (a bc : BlockLine) : (s.withLines a bc).pos = s.pos := rfl
@[simp] theorem withLines_port (a bc : BlockLine) : (s.withLines a bc).port = s.port := rfl
@[simp] theorem withLines_seq (a bc : BlockLine) : (s.withLines a bc).seq = s.seq := rfl
@[simp] theorem withLines_result (a bc : BlockLine) : (s.withLines a bc).result = s.result := rfl
@[simp] theorem withLines_freeCtr (a bc : BlockLine) : (s.withLines a bc).freeCtr = s.freeCtr := rfl
@[simp] theorem withLines_hookState (a bc : BlockLine) : (s.withLines a bc).hookState = s.hookState := rfl

/-! ### withCtx -/

@[simp] theorem withCtx_st (a b : Ctx) : (s.withCtx a b).st = s.st := rfl
@[simp] theorem withCtx_err (a b : Ctx) : (s.withCtx a b).err = s.err := rfl
@[simp] theorem withCtx_params (a b : Ctx) : (s.withCtx a b).params = s.params := rfl
@[simp] theorem withCtx_ctxA (a b : Ctx) : (s.withCtx a b).ctxA = a := rfl
@[simp] theorem withCtx_ctxB (a b : Ctx) : (s.withCtx a b).ctxB = b := rfl
@[simp] theorem withCtx_bp (a b : Ctx) : (s.withCtx a b).bp = s.bp := rfl
@[simp] theorem withCtx_bitdepthDiff (a b : Ctx) : (s.withCtx a b).bitdepthDiff = s.bitdepthDiff := rfl
@[simp] theorem withCtx_decodingMode (a b : Ctx) : (s.withCtx a b).decodingMode = s.decodingMode := rfl
@[simp] theorem withCtx_currentLineIndex (a b : Ctx) : (s.withCtx a b).currentLineIndex = s.currentLineIndex := rfl
@[simp] theorem withCtx_currentBlockIndex (a b : Ctx) : (s.withCtx a b).currentBlockIndex = s.currentBlockIndex := rfl
@[simp] theorem withCtx_readValuesCount (a b : Ctx) : (s.withCtx a b).readValuesCount = s.readValuesCount := rfl
@[simp] theorem withCtx_i (a b : Ctx) : (s.withCtx a b).i = s.i := rfl
@[simp] theorem withCtx_noiseLevel (a b : Ctx) : (s.withCtx a b).noiseLevel = s.noiseLevel := rfl
@[simp] theorem withCtx_noiseCount (a b : Ctx) : (s.withCtx a b).noiseCount = s.noiseCount := rfl
@[simp] theorem withCtx_noiseLevels (a b : Ctx) : (s.withCtx a b).noiseLevels = s.noiseLevels := rfl
@[simp] theorem withCtx_lineA (a b : Ctx) : (s.withCtx a b).lineA = s.lineA := rfl
@[simp] theorem withCtx_lineBC (a b : Ctx) : (s.withCtx a b).lineBC = s.lineBC := rfl
@[simp] theorem withCtx_lineAPrev (a b : Ctx) : (s.withCtx a b).lineAPrev = s.lineAPrev := rfl
@[simp] theorem withCtx_lineBPrev (a b : Ctx) : (s.withCtx a b).lineBPrev = s.lineBPrev := rfl
@[simp] theorem withCtx_lineCPrev (a b : Ctx) : (s.withCtx a b).lineCPrev = s.lineCPrev := rfl
@[simp] theorem withCtx_stream (a b : Ctx) : (s.withCtx a b).stream = s.stream := rfl
@[simp] theorem withCtx_pos (a b : Ctx) : (s.withCtx a b).pos = s.pos := rfl
@[simp] theorem withCtx_port (a b : Ctx) : (s.withCtx a b).port = s.port := rfl
@[simp] theorem withCtx_seq (a b : Ctx) : (s.withCtx a b).seq = s.seq := rfl
@[simp] theorem withCtx_result (a b : Ctx) : (s.withCtx a b).result = s.result := rfl
@[simp] theorem withCtx_freeCtr (a b : Ctx) : (s.withCtx a b).freeCtr = s.freeCtr := rfl
@[simp] theorem withCtx_hookState (a b : Ctx) : (s.withCtx a b).hookState = s.hookState := rfl

/-! ### withNoiseCount -/

@[simp] theorem withNoiseCount_st (n : Nat) : (s.withNoiseCount n).st = s.st := rfl
@[simp] theorem withNoiseCount_err (n : Nat) : (s.withNoiseCount n).err = s.err := rfl
@[simp] theorem withNoiseCount_params (n : Nat) : (s.withNoiseCount n).params = s.params := rfl
@[simp] theorem withNoiseCount_ctxA (n : Nat) : (s.withNoiseCount n).ctxA = s.ctxA := rfl
@[simp] theorem withNoiseCount_ctxB (n : Nat) : (s.withNoiseCount n).ctxB = s.ctxB := rfl
@[simp] theorem withNoiseCount_bp (n : Nat) : (s.withNoiseCount n).bp = s.bp := rfl
@[simp] theorem withNoiseCount_bitdepthDiff (n : Nat) : (s.withNoiseCount n).bitdepthDiff = s.bitdepthDiff := rfl
@[simp] theorem withNoiseCount_decodingMode (n : Nat) : (s.withNoiseCount n).decodingMode = s.decodingMode := rfl
@[simp] theorem withNoiseCount_currentLineIndex (n : Nat) : (s.withNoiseCount n).currentLineIndex = s.currentLineIndex := rfl
@[simp] theorem withNoiseCount_currentBlockIndex (n : Nat) : (s.withNoiseCount n).currentBlockIndex = s.currentBlockIndex := rfl
@[simp] theorem withNoiseCount_readValuesCount (n : Nat) : (s.withNoiseCount n).readValuesCount = s.readValuesCount := rfl
@[simp] theorem withNoiseCount_i (n : Nat) : (s.withNoiseCount n).i = s.i := rfl
@[simp] theorem withNoiseCount_noiseLevel (n : Nat) : (s.withNoiseCount n).noiseLevel = s.noiseLevel := rfl
@[simp] theorem withNoiseCount_noiseCount (n : Nat) : (s.withNoiseCount n).noiseCount = n := rfl
@[simp] theorem withNoiseCount_noiseLevels (n : Nat) : (s.withNoiseCount n).noiseLevels = s.noiseLevels := rfl
@[simp] theorem withNoiseCount_lineA (n : Nat) : (s.withNoiseCount n).lineA = s.lineA := rfl
@[simp] theorem withNoiseCount_lineBC (n : Nat) : (s.withNoiseCount n).lineBC = s.lineBC := rfl
@[simp] theorem withNoiseCount_lineAPrev (n : Nat) : (s.withNoiseCount n).lineAPrev = s.lineAPrev := rfl
@[simp] theorem withNoiseCount_lineBPrev (n : Nat) : (s.withNoiseCount n).lineBPrev = s.lineBPrev := rfl
@[simp] theorem withNoiseCount_lineCPrev (n : Nat) : (s.withNoiseCount n).lineCPrev = s.lineCPrev := rfl
@[simp] theorem withNoiseCount_stream (n : Nat) : (s.withNoiseCount n).stream = s.stream := rfl
@[simp] theorem withNoiseCount_pos (n : Nat) : (s.withNoiseCount n).pos = s.pos := rfl
@[simp] theorem withNoiseCount_port (n : Nat) : (s.withNoiseCount n).port = s.port := rfl
@[simp] theorem withNoiseCount_seq (n : Nat) : (s.withNoiseCount n).seq = s.seq := rfl
@[simp] theorem withNoiseCount_result (n : Nat) : (s.withNoiseCount n).result = s.result := rfl
@[simp] theorem withNoiseCount_freeCtr (n : Nat) : (s.withNoiseCount n).freeCtr = s.freeCtr := rfl
@[simp] theorem withNoiseCount_hookState (n : Nat) : (s.withNoiseCount n).hookState = s.hookState := rfl

/-! ### withReadCount -/

@[simp] theorem withReadCount_st (n : Nat) : (s.withReadCount n).st = s.st := rfl
@[simp] theorem withReadCount_err (n : Nat) : (s.withReadCount n).err = s.err := rfl
@[simp] theorem withReadCount_params (n : Nat) : (s.withReadCount n).params = s.params := rfl
@[simp] theorem withReadCount_ctxA (n : Nat) : (s.withReadCount n).ctxA = s.ctxA := rfl
@[simp] theorem withReadCount_ctxB (n : Nat) : (s.withReadCount n).ctxB = s.ctxB := rfl
@[simp] theorem withReadCount_bp (n : Nat) : (s.withReadCount n).bp = s.bp := rfl
@[simp] theorem withReadCount_bitdepthDiff (n : Nat) : (s.withReadCount n).bitdepthDiff = s.bitdepthDiff := rfl
@[simp] theorem withReadCount_decodingMode (n : Nat) : (s.withReadCount n).decodingMode = s.decodingMode := rfl
@[simp] theorem withReadCount_currentLineIndex (n : Nat) : (s.withReadCount n).currentLineIndex = s.currentLineIndex := rfl
@[simp] theorem withReadCount_currentBlockIndex (n : Nat) : (s.withReadCount n).currentBlockIndex = s.currentBlockIndex := rfl
@[simp] theorem withReadCount_readValuesCount (n : Nat) : (s.withReadCount n).readValuesCount = n := rfl
@[simp] theorem withReadCount_i (n : Nat) : (s.withReadCount n).i = s.i := rfl
@[simp] theorem withReadCount_noiseLevel (n : Nat) : (s.withReadCount n).noiseLevel = s.noiseLevel := rfl
@[simp] theorem withReadCount_noiseCount (n : Nat) : (s.withReadCount n).noiseCount = s.noiseCount := rfl
@[simp] theorem withReadCount_noiseLevels (n : Nat) : (s.withReadCount n).noiseLevels = s.noiseLevels := rfl
@[simp] theorem withReadCount_lineA (n : Nat) : (s.withReadCount n).lineA = s.lineA := rfl
@[simp] theorem withReadCount_lineBC (n : Nat) : (s.withReadCount n).lineBC = s.lineBC := rfl
@[simp] theorem withReadCount_lineAPrev (n : Nat) : (s.withReadCount n).lineAPrev = s.lineAPrev := rfl
@[simp] theorem withReadCount_lineBPrev (n : Nat) : (s.withReadCount n).lineBPrev = s.lineBPrev := rfl
@[simp] theorem withReadCount_lineCPrev (n : Nat) : (s.withReadCount n).lineCPrev = s.lineCPrev := rfl
@[simp] theorem withReadCount_stream (n : Nat) : (s.withReadCount n).stream = s.stream := rfl
@[simp] theorem withReadCount_pos (n : Nat) : (s.withReadCount n).pos = s.pos := rfl
@[simp] theorem withReadCount_port (n : Nat) : (s.withReadCount n).port = s.port := rfl
@[simp] theorem withReadCount_seq (n : Nat) : (s.withReadCount n).seq = s.seq := rfl
@[simp] theorem withReadCount_result (n : Nat) : (s.withReadCount n).result = s.result := rfl
@[simp] theorem withReadCount_freeCtr (n : Nat) : (s.withReadCount n).freeCtr = s.freeCtr := rfl
@[simp] theorem withReadCount_hookState (n : Nat) : (s.withReadCount n).hookState = s.hookState := rfl

/-! ### withIndex -/

@[simp] theorem withIndex_st (n : Nat) : (s.withIndex n).st = s.st := rfl
@[simp] theorem withIndex_err (n : Nat) : (s.withIndex n).err = s.err := rfl
@[simp] theorem withIndex_params (n : Nat) : (s.withIndex n).params = s.params := rfl
@[simp] theorem withIndex_ctxA (n : Nat) : (s.withIndex n).ctxA = s.ctxA := rfl
@[simp] theorem withIndex_ctxB (n : Nat) : (s.withIndex n).ctxB = s.ctxB := rfl
@[simp] theorem withIndex_bp (n : Nat) : (s.withIndex n).bp = s.bp := rfl
@[simp] theorem withIndex_bitdepthDiff (n : Nat) : (s.withIndex n).bitdepthDiff = s.bitdepthDiff := rfl
@[simp] theorem withIndex_decodingMode (n : Nat) : (s.withIndex n).decodingMode = s.decodingMode := rfl
@[simp] theorem withIndex_currentLineIndex (n : Nat) : (s.withIndex n).currentLineIndex = s.currentLineIndex := rfl
@[simp] theorem withIndex_currentBlockIndex (n : Nat) : (s.withIndex n).currentBlockIndex = s.currentBlockIndex := rfl
@[simp] theorem withIndex_readValuesCount (n : Nat) : (s.withIndex n).readValuesCount = s.readValuesCount := rfl
@[simp] theorem withIndex_i (n : Nat) : (s.withIndex n).i = n := rfl
@[simp] theorem withIndex_noiseLevel (n : Nat) : (s.withIndex n).noiseLevel = s.noiseLevel := rfl
@[simp] theorem withIndex_noiseCount (n : Nat) : (s.withIndex n).noiseCount = s.noiseCount := rfl
@[simp] theorem withIndex_noiseLevels (n : Nat) : (s.withIndex n).noiseLevels = s.noiseLevels := rfl
@[simp] theorem withIndex_lineA (n : Nat) : (s.withIndex n).lineA = s.lineA := rfl
@[simp] theorem withIndex_lineBC (n : Nat) : (s.withIndex n).lineBC = s.lineBC := rfl
@[simp] theorem withIndex_lineAPrev (n : Nat) : (s.withIndex n).lineAPrev = s.lineAPrev := rfl
@[simp] theorem withIndex_lineBPrev (n : Nat) : (s.withIndex n).lineBPrev = s.lineBPrev := rfl
@[simp] theorem withIndex_lineCPrev (n : Nat) : (s.withIndex n).lineCPrev = s.lineCPrev := rfl
@[simp] theorem withIndex_stream (n : Nat) : (s.withIndex n).stream = s.stream := rfl
@[simp] theorem withIndex_pos (n : Nat) : (s.withIndex n).pos = s.pos := rfl
@[simp] theorem withIndex_port (n : Nat) : (s.withIndex n).port = s.port := rfl
@[simp] theorem withIndex_seq (n : Nat) : (s.withIndex n).seq = s.seq := rfl
@[simp] theorem withIndex_result (n : Nat) : (s.withIndex n).result = s.result := rfl
@[simp] theorem withIndex_freeCtr (n : Nat) : (s.withIndex n).freeCtr = s.freeCtr := rfl
@[simp] theorem withIndex_hookState (n : Nat) : (s.withIndex n).hookState = s.hookState := rfl

/-! ### withBlock -/

@[simp] theorem withBlock_st (n : Nat) : (s.withBlock n).st = s.st := rfl
@[simp] theorem withBlock_err (n : Nat) : (s.withBlock n).err = s.err := rfl
@[simp] theorem withBlock_params (n : Nat) : (s.withBlock n).params = s.params := rfl
@[simp] theorem withBlock_ctxA (n : Nat) : (s.withBlock n).ctxA = s.ctxA := rfl
@[simp] theorem withBlock_ctxB (n : Nat) : (s.withBlock n).ctxB = s.ctxB := rfl
@[simp] theorem withBlock_bp (n : Nat) : (s.withBlock n).bp = s.bp := rfl
@[simp] theorem withBlock_bitdepthDiff (n : Nat) : (s.withBlock n).bitdepthDiff = s.bitdepthDiff := rfl
@[simp] theorem withBlock_decodingMode (n : Nat) : (s.withBlock n).decodingMode = s.decodingMode := rfl
@[simp] theorem withBlock_currentLineIndex (n : Nat) : (s.withBlock n).currentLineIndex = s.currentLineIndex := rfl
@[simp] theorem withBlock_currentBlockIndex (n : Nat) : (s.withBlock n).currentBlockIndex = n := rfl
@[simp] theorem withBlock_readValuesCount (n : Nat) : (s.withBlock n).readValuesCount = s.readValuesCount := rfl
@[simp] theorem withBlock_i (n : Nat) : (s.withBlock n).i = s.i := rfl
@[simp] theorem withBlock_noiseLevel (n : Nat) : (s.withBlock n).noiseLevel = s.noiseLevel := rfl
@[simp] theorem withBlock_noiseCount (n : Nat) : (s.withBlock n).noiseCount = s.noiseCount := rfl
@[simp] theorem withBlock_noiseLevels (n : Nat) : (s.withBlock n).noiseLevels = s.noiseLevels := rfl
@[simp] theorem withBlock_lineA (n : Nat) : (s.withBlock n).lineA = s.lineA := rfl
@[simp] theorem withBlock_lineBC (n : Nat) : (s.withBlock n).lineBC = s.lineBC := rfl
@[simp] theorem withBlock_lineAPrev (n : Nat) : (s.withBlock n).lineAPrev = s.lineAPrev := rfl
@[simp] theorem withBlock_lineBPrev (n : Nat) : (s.withBlock n).lineBPrev = s.lineBPrev := rfl
@[simp] theorem withBlock_lineCPrev (n : Nat) : (s.withBlock n).lineCPrev = s.lineCPrev := rfl
@[simp] theorem withBlock_stream (n : Nat) : (s.withBlock n).stream = s.stream := rfl
@[simp] theorem withBlock_pos (n : Nat) : (s.withBlock n).pos = s.pos := rfl
@[simp] theorem withBlock_port (n : Nat) : (s.withBlock n).port = s.port := rfl
@[simp] theorem withBlock_seq (n : Nat) : (s.withBlock n).seq = s.seq := rfl
@[simp] theorem withBlock_result (n : Nat) : (s.withBlock n).result = s.result := rfl
@[simp] theorem withBlock_freeCtr (n : Nat) : (s.withBlock n).freeCtr = s.freeCtr := rfl
@[simp] theorem withBlock_hookState (n : Nat) : (s.withBlock n).hookState = s.hookState := rfl

/-! ### withBlockParams -/

@[simp] theorem withBlockParams_st (q : BlockParams) : (s.withBlockParams q).st = s.st := rfl
@[simp] theorem withBlockParams_err (q : BlockParams) : (s.withBlockParams q).err = s.err := rfl
@[simp] theorem withBlockParams_params (q : BlockParams) : (s.withBlockParams q).params = s.params := rfl
@[simp] theorem withBlockParams_ctxA (q : BlockParams) : (s.withBlockParams q).ctxA = s.ctxA := rfl
@[simp] theorem withBlockParams_ctxB (q : BlockParams) : (s.withBlockParams q).ctxB = s.ctxB := rfl
@[simp] theorem withBlockParams_bp (q : BlockParams) : (s.withBlockParams q).bp = q := rfl
@[simp] theorem withBlockParams_bitdepthDiff (q : BlockParams) : (s.withBlockParams q).bitdepthDiff = s.bitdepthDiff := rfl
@[simp] theorem withBlockParams_decodingMode (q : BlockParams) : (s.withBlockParams q).decodingMode = s.decodingMode := rfl
@[simp] theorem withBlockParams_currentLineIndex (q : BlockParams) : (s.withBlockParams q).currentLineIndex = s.currentLineIndex := rfl
@[simp] theorem withBlockParams_currentBlockIndex (q : BlockParams) : (s.withBlockParams q).currentBlockIndex = s.currentBlockIndex := rfl
@[simp] theorem withBlockParams_readValuesCount (q : BlockParams) : (s.withBlockParams q).readValuesCount = s.readValuesCount := rfl
@[simp] theorem withBlockParams_i (q : BlockParams) : (s.withBlockParams q).i = s.i := rfl
@[simp] theorem withBlockParams_noiseLevel (q : BlockParams) : (s.withBlockParams q).noiseLevel = s.noiseLevel := rfl
@[simp] theorem withBlockParams_noiseCount (q : BlockParams) : (s.withBlockParams q).noiseCount = s.noiseCount := rfl
@[simp] theorem withBlockParams_noiseLevels (q : BlockParams) : (s.withBlockParams q).noiseLevels = s.noiseLevels := rfl
@[simp] theorem withBlockParams_lineA (q : BlockParams) : (s.withBlockParams q).lineA = s.lineA := rfl
@[simp] theorem withBlockParams_lineBC (q : BlockParams) : (s.withBlockParams q).lineBC = s.lineBC := rfl
@[simp] theorem withBlockParams_lineAPrev (q : BlockParams) : (s.withBlockParams q).lineAPrev = s.lineAPrev := rfl
@[simp] theorem withBlockParams_lineBPrev (q : BlockParams) : (s.withBlockParams q).lineBPrev = s.lineBPrev := rfl
@[simp] theorem withBlockParams_lineCPrev (q : BlockParams) : (s.withBlockParams q).lineCPrev = s.lineCPrev := rfl
@[simp] theorem withBlockParams_stream (q : BlockParams) : (s.withBlockParams q).stream = s.stream := rfl
@[simp] theorem withBlockParams_pos (q : BlockParams) : (s.withBlockParams q).pos = s.pos := rfl
@[simp] theorem withBlockParams_port (q : BlockParams) : (s.withBlockParams q).port = s.port := rfl
@[simp] theorem withBlockParams_seq (q : BlockParams) : (s.withBlockParams q).seq = s.seq := rfl
@[simp] theorem withBlockParams_result (q : BlockParams) : (s.withBlockParams q).result = s.result := rfl
@[simp] theorem withBlockParams_freeCtr (q : BlockParams) : (s.withBlockParams q).freeCtr = s.freeCtr := rfl
@[simp] theorem withBlockParams_hookState (q : BlockParams) : (s.withBlockParams q).hookState = s.hookState := rfl

/-! ### withSeq -/

@[simp] theorem withSeq_st (q : Seq) : (s.withSeq q).st = s.st := rfl
@[simp] theorem withSeq_err (q : Seq) : (s.withSeq q).err = s.err := rfl
@[simp] theorem withSeq_params (q : Seq) : (s.withSeq q).params = s.params := rfl
@[simp] theorem withSeq_ctxA (q : Seq) : (s.withSeq q).ctxA = s.ctxA := rfl
@[simp] theorem withSeq_ctxB (q : Seq) : (s.withSeq q).ctxB = s.ctxB := rfl
@[simp] theorem withSeq_bp (q : Seq) : (s.withSeq q).bp = s.bp := rfl
@[simp] theorem withSeq_bitdepthDiff (q : Seq) : (s.withSeq q).bitdepthDiff = s.bitdepthDiff := rfl
@[simp] theorem withSeq_decodingMode (q : Seq) : (s.withSeq q).decodingMode = s.decodingMode := rfl
@[simp] theorem withSeq_currentLineIndex (q : Seq) : (s.withSeq q).currentLineIndex = s.currentLineIndex := rfl
@[simp] theorem withSeq_currentBlockIndex (q : Seq) : (s.withSeq q).currentBlockIndex = s.currentBlockIndex := rfl
@[simp] theorem withSeq_readValuesCount (q : Seq) : (s.withSeq q).readValuesCount = s.readValuesCount := rfl
@[simp] theorem withSeq_i (q : Seq) : (s.withSeq q).i = s.i := rfl
@[simp] theorem withSeq_noiseLevel (q : Seq) : (s.withSeq q).noiseLevel = s.noiseLevel := rfl
@[simp] theorem withSeq_noiseCount (q : Seq) : (s.withSeq q).noiseCount = s.noiseCount := rfl
@[simp] theorem withSeq_noiseLevels (q : Seq) : (s.withSeq q).noiseLevels = s.noiseLevels := rfl
@[simp] theorem withSeq_lineA (q : Seq) : (s.withSeq q).lineA = s.lineA := rfl
@[simp] theorem withSeq_lineBC (q : Seq) : (s.withSeq q).lineBC = s.lineBC := rfl
@[simp] theorem withSeq_lineAPrev (q : Seq) : (s.withSeq q).lineAPrev = s.lineAPrev := rfl
@[simp] theorem withSeq_lineBPrev (q : Seq) : (s.withSeq q).lineBPrev = s.lineBPrev := rfl
@[simp] theorem withSeq_lineCPrev (q : Seq) : (s.withSeq q).lineCPrev = s.lineCPrev := rfl
@[simp] theorem withSeq_stream (q : Seq) : (s.withSeq q).stream = s.stream := rfl
@[simp] theorem withSeq_pos (q : Seq) : (s.withSeq q).pos = s.pos := rfl
@[simp] theorem withSeq_port (q : Seq) : (s.withSeq q).port = s.port := rfl
@[simp] theorem withSeq_seq (q : Seq) : (s.withSeq q).seq = q := rfl
@[simp] theorem withSeq_result (q : Seq) : (s.withSeq q).result = s.result := rfl
@[simp] theorem withSeq_freeCtr (q : Seq) : (s.withSeq q).freeCtr = s.freeCtr := rfl
@[simp] theorem withSeq_hookState (q : Seq) : (s.withSeq q).hookState = s.hookState := rfl

/-! ### withResult -/

@[simp] theorem withResult_st (r : Result) : (s.withResult r).st = s.st := rfl
@[simp] theorem withResult_err (r : Result) : (s.withResult r).err = s.err := rfl
@[simp] theorem withResult_params (r : Result) : (s.withResult r).params = s.params := rfl
@[simp] theorem withResult_ctxA (r : Result) : (s.withResult r).ctxA = s.ctxA := rfl
@[simp] theorem withResult_ctxB (r : Result) : (s.withResult r).ctxB = s.ctxB := rfl
@[simp] theorem withResult_bp (r : Result) : (s.withResult r).bp = s.bp := rfl
@[simp] theorem withResult_bitdepthDiff (r : Result) : (s.withResult r).bitdepthDiff = s.bitdepthDiff := rfl
@[simp] theorem withResult_decodingMode (r : Result) : (s.withResult r).decodingMode = s.decodingMode := rfl
@[simp] theorem withResult_currentLineIndex (r : Result) : (s.withResult r).currentLineIndex = s.currentLineIndex := rfl
@[simp] theorem withResult_currentBlockIndex (r : Result) : (s.withResult r).currentBlockIndex = s.currentBlockIndex := rfl
@[simp] theorem withResult_readValuesCount (r : Result) : (s.withResult r).readValuesCount = s.readValuesCount := rfl
@[simp] theorem withResult_i (r : Result) : (s.withResult r).i = s.i := rfl
@[simp] theorem withResult_noiseLevel (r : Result) : (s.withResult r).noiseLevel = s.noiseLevel := rfl
@[simp] theorem withResult_noiseCount (r : Result) : (s.withResult r).noiseCount = s.noiseCount := rfl
@[simp] theorem withResult_noiseLevels (r : Result) : (s.withResult r).noiseLevels = s.noiseLevels := rfl
@[simp] theorem withResult_lineA (r : Result) : (s.withResult r).lineA = s.lineA := rfl
@[simp] theorem withResult_lineBC (r : Result) : (s.withResult r).lineBC = s.lineBC := rfl
@[simp] theorem withResult_lineAPrev (r : Result) : (s.withResult r).lineAPrev = s.lineAPrev := rfl
@[simp] theorem withResult_lineBPrev (r : Result) : (s.withResult r).lineBPrev = s.lineBPrev := rfl
@[simp] theorem withResult_lineCPrev (r : Result) : (s.withResult r).lineCPrev = s.lineCPrev := rfl
@[simp] theorem withResult_stream (r : Result) : (s.withResult r).stream = s.stream := rfl
@[simp] theorem withResult_pos (r : Result) : (s.withResult r).pos = s.pos := rfl
@[simp] theorem withResult_port (r : Result) : (s.withResult r).port = s.port := rfl
@[simp] theorem withResult_seq (r : Result) : (s.withResult r).seq = s.seq := rfl
@[simp] theorem withResult_result (r : Result) : (s.withResult r).result = r := rfl
@[simp] theorem withResult_freeCtr (r : Result) : (s.withResult r).freeCtr = s.freeCtr := rfl
@[simp] theorem withResult_hookState (r : Result) : (s.withResult r).hookState = s.hookState := rfl

/-! ### withPort -/

@[simp] theorem withPort_st (p : List HostAction) : (s.withPort p).st = s.st := rfl
@[simp] theorem withPort_err (p : List HostAction) : (s.withPort p).err = s.err := rfl
@[simp] theorem withPort_params (p : List HostAction) : (s.withPort p).params = s.params := rfl
@[simp] theorem withPort_ctxA (p : List HostAction) : (s.withPort p).ctxA = s.ctxA := rfl
@[simp] theorem withPort_ctxB (p : List HostAction) : (s.withPort p).ctxB = s.ctxB := rfl
@[simp] theorem withPort_bp (p : List HostAction) : (s.withPort p).bp = s.bp := rfl
@[simp] theorem withPort_bitdepthDiff (p : List HostAction) : (s.withPort p).bitdepthDiff = s.bitdepthDiff := rfl
@[simp] theorem withPort_decodingMode (p : List HostAction) : (s.withPort p).decodingMode = s.decodingMode := rfl
@[simp] theorem withPort_currentLineIndex (p : List HostAction) : (s.withPort p).currentLineIndex = s.currentLineIndex := rfl
@[simp] theorem withPort_currentBlockIndex (p : List HostAction) : (s.withPort p).currentBlockIndex = s.currentBlockIndex := rfl
@[simp] theorem withPort_readValuesCount (p : List HostAction) : (s.withPort p).readValuesCount = s.readValuesCount := rfl
@[simp] theorem withPort_i (p : List HostAction) : (s.withPort p).i = s.i := rfl
@[simp] theorem withPort_noiseLevel (p : List HostAction) : (s.withPort p).noiseLevel = s.noiseLevel := rfl
@[simp] theorem withPort_noiseCount (p : List HostAction) : (s.withPort p).noiseCount = s.noiseCount := rfl
@[simp] theorem withPort_noiseLevels (p : List HostAction) : (s.withPort p).noiseLevels = s.noiseLevels := rfl
@[simp] theorem withPort_lineA (p : List HostAction) : (s.withPort p).lineA = s.lineA := rfl
@[simp] theorem withPort_lineBC (p : List HostAction) : (s.withPort p).lineBC = s.lineBC := rfl
@[simp] theorem withPort_lineAPrev (p : List HostAction) : (s.withPort p).lineAPrev = s.lineAPrev := rfl
@[simp] theorem withPort_lineBPrev (p : List HostAction) : (s.withPort p).lineBPrev = s.lineBPrev := rfl
@[simp] theorem withPort_lineCPrev (p : List HostAction) : (s.withPort p).lineCPrev = s.lineCPrev := rfl
@[simp] theorem withPort_stream (p : List HostAction) : (s.withPort p).stream = s.stream := rfl
@[simp] theorem withPort_pos (p : List HostAction) : (s.withPort p).pos = s.pos := rfl
@[simp] theorem withPort_port (p : List HostAction) : (s.withPort p).port = p := rfl
@[simp] theorem withPort_seq (p : List HostAction) : (s.withPort p).seq = s.seq := rfl
@[simp] theorem withPort_result (p : List HostAction) : (s.withPort p).result = s.result := rfl
@[simp] theorem withPort_freeCtr (p : List HostAction) : (s.withPort p).freeCtr = s.freeCtr := rfl
@[simp] theorem withPort_hookState (p : List HostAction) : (s.withPort p).hookState = s.hookState := rfl

/-! ### withStream -/

@[simp] theorem withStream_st (b : List Bool) (p : Nat) : (s.withStream b p).st = s.st := rfl
@[simp] theorem withStream_err (b : List Bool) (p : Nat) : (s.withStream b p).err = s.err := rfl
@[simp] theorem withStream_params (b : List Bool) (p : Nat) : (s.withStream b p).params = s.params := rfl
@[simp] theorem withStream_ctxA (b : List Bool) (p : Nat) : (s.withStream b p).ctxA = s.ctxA := rfl
@[simp] theorem withStream_ctxB (b : List Bool) (p : Nat) : (s.withStream b p).ctxB = s.ctxB := rfl
@[simp] theorem withStream_bp (b : List Bool) (p : Nat) : (s.withStream b p).bp = s.bp := rfl
@[simp] theorem withStream_bitdepthDiff (b : List Bool) (p : Nat) : (s.withStream b p).bitdepthDiff = s.bitdepthDiff := rfl
@[simp] theorem withStream_decodingMode (b : List Bool) (p : Nat) : (s.withStream b p).decodingMode = s.decodingMode := rfl
@[simp] theorem withStream_currentLineIndex (b : List Bool) (p : Nat) : (s.withStream b p).currentLineIndex = s.currentLineIndex := rfl
@[simp] theorem withStream_currentBlockIndex (b : List Bool) (p : Nat) : (s.withStream b p).currentBlockIndex = s.currentBlockIndex := rfl
@[simp] theorem withStream_readValuesCount (b : List Bool) (p : Nat) : (s.withStream b p).readValuesCount = s.readValuesCount := rfl
@[simp] theorem withStream_i (b : List Bool) (p : Nat) : (s.withStream b p).i = s.i := rfl
@[simp] theorem withStream_noiseLevel (b : List Bool) (p : Nat) : (s.withStream b p).noiseLevel = s.noiseLevel := rfl
@[simp] theorem withStream_noiseCount (b : List Bool) (p : Nat) : (s.withStream b p).noiseCount = s.noiseCount := rfl
@[simp] theorem withStream_noiseLevels (b : List Bool) (p : Nat) : (s.withStream b p).noiseLevels = s.noiseLevels := rfl
@[simp] theorem withStream_lineA (b : List Bool) (p : Nat) : (s.withStream b p).lineA = s.lineA := rfl
@[simp] theorem withStream_lineBC (b : List Bool) (p : Nat) : (s.withStream b p).lineBC = s.lineBC := rfl
@[simp] theorem withStream_lineAPrev (b : List Bool) (p : Nat) : (s.withStream b p).lineAPrev = s.lineAPrev := rfl
@[simp] theorem withStream_lineBPrev (b : List Bool) (p : Nat) : (s.withStream b p).lineBPrev = s.lineBPrev := rfl
@[simp] theorem withStream_lineCPrev (b : List Bool) (p : Nat) : (s.withStream b p).lineCPrev = s.lineCPrev := rfl
@[simp] theorem withStream_stream (b : List Bool) (p : Nat) : (s.withStream b p).stream = b := rfl
@[simp] theorem withStream_pos (b : List Bool) (p : Nat) : (s.withStream b p).pos = p := rfl
@[simp] theorem withStream_port (b : List Bool) (p : Nat) : (s.withStream b p).port = s.port := rfl
@[simp] theorem withStream_seq (b : List Bool) (p : Nat) : (s.withStream b p).seq = s.seq := rfl
@[simp] theorem withStream_result (b : List Bool) (p : Nat) : (s.withStream b p).result = s.result := rfl
@[simp] theorem withStream_freeCtr (b : List Bool) (p : Nat) : (s.withStream b p).freeCtr = s.freeCtr := rfl
@[simp] theorem withStream_hookState (b : List Bool) (p : Nat) : (s.withStream b p).hookState = s.hookState := rfl

end Sys2Proof.Machine
end

