-- ==== Sys2Proof/Laws/Ops.lean ====
section
/-! SUPPORT. One lemma per shared operation: everything it can do when it answers. -/

namespace Sys2Proof.Machine

variable {s t : State}

/-! ### Outcomes inside a command -/

theorem bind_ok_iff {α β : Type} {x : Res α} {f : α → Res β} {b : β} :
    (x >>= f) = .ok b ↔ ∃ a, x = .ok a ∧ f a = .ok b := by
  cases x with
  | ok a => exact ⟨fun h => ⟨a, rfl, h⟩, by rintro ⟨a', h, h'⟩; cases h; exact h'⟩
  | error e => exact ⟨fun h => (by cases h), by rintro ⟨a, h, -⟩; cases h⟩

@[simp] theorem ok_bind {α β : Type} (a : α) (f : α → Res β) : ((Except.ok a : Res α) >>= f) = f a := rfl

@[simp] theorem error_bind {α β : Type} (e : Stop) (f : α → Res β) :
    ((Except.error e : Res α) >>= f) = .error e := rfl

/-! ### The BitSource port -/

/-- What Consume can do. -/
theorem consume_ok_iff {n : Nat} : consume n s = .ok t ↔ s.pos + n ≤ s.streamLength ∧ t = s.atPos (s.pos + n) := by
  unfold consume
  split
  · next h => simp; omega
  · next h => simp [eq_comm]; omega

theorem consume_ok {n : Nat} (h : s.pos + n ≤ s.streamLength) : consume n s = .ok (s.atPos (s.pos + n)) :=
  consume_ok_iff.mpr ⟨h, rfl⟩

theorem consume_error {n : Nat} (h : s.pos + n > s.streamLength) :
    consume n s = .error (.raised .unexpectedEndOfStream) := if_pos h

theorem le_alignUp {B p : Nat} (hB : 0 < B) : p ≤ alignUp B p := by
  unfold alignUp
  have := Nat.div_add_mod (p + B - 1) B
  have h2 := Nat.mod_lt (p + B - 1) hB
  rw [Nat.mul_comm] at this
  omega

theorem alignUp_lt {B p : Nat} (hB : 0 < B) : alignUp B p < p + B := by
  unfold alignUp
  have := Nat.div_mul_le_self (p + B - 1) B
  omega

theorem dvd_alignUp (B p : Nat) : B ∣ alignUp B p := Nat.dvd_mul_left _ _

/-- What AlignTo can do. -/
theorem alignTo_ok_iff {B : Nat} :
    alignTo B s = .ok t ↔ alignUp B s.pos ≤ s.streamLength ∧ t = s.atPos (alignUp B s.pos) := by
  unfold alignTo
  split
  · next h => simp; omega
  · next h => simp [eq_comm]; omega

theorem padBoundary_pos (m : I32) : 0 < padBoundary m := by unfold padBoundary; split <;> omega

@[simp] theorem streamLength_atPos (p : Nat) : (s.atPos p).streamLength = s.streamLength := rfl

/-! ### Fault entry -/

@[simp] theorem raise_st (e : ErrCode) : (raise e s).st = .poisoned := rfl
@[simp] theorem raise_err (e : ErrCode) : (raise e s).err = if s.st = .poisoned then s.err else e := rfl
@[simp] theorem raise_seq (e : ErrCode) : (raise e s).seq = .command := rfl
@[simp] theorem raise_result (e : ErrCode) : (raise e s).result = .faulted := rfl
@[simp] theorem raise_stream (e : ErrCode) : (raise e s).stream = s.stream := rfl
@[simp] theorem raise_port (e : ErrCode) : (raise e s).port = s.port := rfl
@[simp] theorem raise_hookState (e : ErrCode) : (raise e s).hookState = s.hookState := rfl
@[simp] theorem raise_freeCtr (e : ErrCode) : (raise e s).freeCtr = s.freeCtr + 1 := rfl

/-- After a fault `pos` is somewhere in the stream. -/
theorem raise_pos_le (e : ErrCode) : (raise e s).pos ≤ (raise e s).streamLength :=
  Nat.lt_succ_iff.mp (Nat.mod_lt _ (Nat.succ_pos _))

/-- The state a fault leaves depends on nothing but the code, `st`, `err`, the stream, the host's actions, the hooks' own state and the
counter of free values. -/
theorem raise_congr (e : ErrCode) (h1 : s.st = t.st) (h2 : s.err = t.err) (h3 : s.stream = t.stream)
    (h4 : s.port = t.port) (h5 : s.hookState = t.hookState) (h6 : s.freeCtr = t.freeCtr) : raise e s = raise e t := by
  cases s
  cases t
  simp only at h1 h2 h3 h4 h5 h6
  subst h1 h2 h3 h4 h5 h6
  rfl

/-- What an instruction answers. -/
theorem finish_next_iff {r : Res State} :
    finish s r = .next t ↔ r = .ok t ∨ ∃ e, r = .error (.raised e) ∧ t = raise e s := by
  cases r with
  | ok u => simp [finish]
  | error e => cases e <;> simp [finish, eq_comm]

@[simp] theorem finish_ok : finish s (.ok t) = .next t := rfl
@[simp] theorem finish_raised (e : ErrCode) : finish s (.error (.raised e)) = .next (raise e s) := rfl
@[simp] theorem finish_fault (f : Fault) : finish s (.error (.fault f)) = .fault f := rfl
@[simp] theorem finish_refused (r : Refusal) : finish s (.error (.refused r)) = .refused r := rfl

/-- What a command other than CONSTRUCT can answer. -/
theorem command_next_iff {allowed : Bool} {body : Res State} :
    command s allowed body = .next t ↔
      (s.st = .poisoned ∧ t = s.withResult .refused) ∨
      (s.st ≠ .poisoned ∧ allowed = true ∧ finish s body = .next t) ∨
      (s.st ≠ .poisoned ∧ allowed = false ∧ t = raise .invalidState s) := by
  unfold command
  by_cases h : s.st = .poisoned
  · simp [h, eq_comm]
  · cases allowed <;> simp [h, eq_comm]

theorem command_poisoned {allowed : Bool} {body : Res State} (h : s.st = .poisoned) :
    command s allowed body = .next (s.withResult .refused) := if_pos h

theorem command_allowed {body : Res State} (h : s.st ≠ .poisoned) : command s true body = finish s body := by
  simp [command, h]

theorem command_disallowed {body : Res State} (h : s.st ≠ .poisoned) :
    command s false body = .next (raise .invalidState s) := by
  simp [command, h]

/-! ### Headers -/

/-- What CheckRange can do. -/
theorem checkRange_ok_iff {diff : Int} :
    checkRange diff s = .ok t ↔
      (0 ≤ diff ∧ diff ≤ 15 ∧ diff ≤ s.params.bitdepthReal.toInt) ∧ t = s.withDiff diff.toNat := by
  unfold checkRange
  split
  · next h => simp; omega
  · next h => simp [eq_comm]; omega

theorem checkRange_error {diff : Int} (h : diff < 0 ∨ diff > 15 ∨ diff > s.params.bitdepthReal.toInt) :
    checkRange diff s = .error (.raised .bitdepthDiffOutOfRange) := if_pos h

/-- What the common tail of the headers can do. -/
theorem headerTail_ok_iff {m : Bool} :
    headerTail m s = .ok t ↔ s.pos + 1 ≤ s.streamLength ∧ ∃ a bc,
      hdrWrite s.lineA s.currentBlockIndex (BitVec.ofNat 4 s.bitdepthDiff) = .ok a ∧
      hdrWrite s.lineBC s.currentBlockIndex (BitVec.ofNat 4 s.bitdepthDiff) = .ok bc ∧
      t = ((s.atPos (s.pos + 1)).withMode m).withLines a bc := by
  unfold headerTail
  simp only [bind_ok_iff, consume_ok_iff]
  constructor
  · rintro ⟨u, ⟨hl, rfl⟩, a, ha, bc, hbc, hs⟩
    simp only [atPos_lineA, atPos_lineBC, withMode_lineA, withMode_lineBC, withMode_currentBlockIndex,
      atPos_currentBlockIndex, withMode_bitdepthDiff, atPos_bitdepthDiff] at ha hbc
    exact ⟨hl, a, bc, ha, hbc, by injection hs with hs; exact hs.symm⟩
  · rintro ⟨hl, a, bc, ha, hbc, rfl⟩
    exact ⟨_, ⟨hl, rfl⟩, a, ha, bc, hbc, rfl⟩

theorem hdrL_ok_iff {m : Bool} : hdrL m s = .ok t ↔ headerTail m (s.withDiff 0) = .ok t := Iff.rfl

theorem hdrF_ok_iff {d : BitVec 4} {m : Bool} :
    hdrF d m s = .ok t ↔ s.pos + 4 ≤ s.streamLength ∧ (d.toNat : Int) ≤ s.params.bitdepthReal.toInt ∧
      headerTail m ((s.atPos (s.pos + 4)).withDiff d.toNat) = .ok t := by
  have hd : d.toNat < 16 := d.isLt
  unfold hdrF
  simp only [bind_ok_iff, consume_ok_iff, checkRange_ok_iff]
  constructor
  · rintro ⟨u, ⟨hl, rfl⟩, w, ⟨hr, rfl⟩, ht⟩
    exact ⟨hl, hr.2.2, ht⟩
  · rintro ⟨hl, hr, ht⟩
    exact ⟨_, ⟨hl, rfl⟩, _, ⟨⟨by omega, by omega, hr⟩, rfl⟩, ht⟩

theorem hdrK_ok_iff {m : Bool} :
    hdrK m s = .ok t ↔ s.pos + 1 ≤ s.streamLength ∧ headerTail m (s.atPos (s.pos + 1)) = .ok t := by
  unfold hdrK
  simp only [bind_ok_iff, consume_ok_iff]
  constructor
  · rintro ⟨u, ⟨hl, rfl⟩, ht⟩
    exact ⟨hl, ht⟩
  · rintro ⟨hl, ht⟩
    exact ⟨_, ⟨hl, rfl⟩, ht⟩

theorem hdrD_ok_iff {code : BitVec 2} {m : Bool} :
    hdrD code m s = .ok t ↔ s.pos + 3 ≤ s.streamLength ∧
      (0 ≤ s.bitdepthDiff + headerDelta code ∧ s.bitdepthDiff + headerDelta code ≤ 15 ∧
        s.bitdepthDiff + headerDelta code ≤ s.params.bitdepthReal.toInt) ∧
      headerTail m ((s.atPos (s.pos + 3)).withDiff (s.bitdepthDiff + headerDelta code).toNat) = .ok t := by
  unfold hdrD
  simp only [bind_ok_iff, consume_ok_iff, checkRange_ok_iff]
  constructor
  · rintro ⟨u, ⟨hl, rfl⟩, v, ⟨hl2, rfl⟩, w, ⟨hr, rfl⟩, ht⟩
    exact ⟨hl2, hr, ht⟩
  · rintro ⟨hl, hr, ht⟩
    exact ⟨_, ⟨by omega, rfl⟩, _, ⟨hl, rfl⟩, _, ⟨hr, rfl⟩, ht⟩

/-! ### Pairs -/

/-- LoadOld on line 0 (42_block_vl.md R111). -/
theorem loadOld_first (h : s.currentLineIndex.toNat = 0) :
    loadOld s = .ok (s.withCtx (setOld0 s.ctxA s.params.defaultPixValue) (setOld0 s.ctxB s.params.defaultPixValue)) :=
  if_neg (by omega)

/-- LoadOld on the later lines (42_block_vl.md R111). -/
theorem loadOld_later (h : s.currentLineIndex.toNat > 0) :
    loadOld s = .ok t ↔ ∃ va vb, memRead s.lineAPrev s.currentBlockIndex s.i = .ok va ∧
      memRead (prevB s) s.currentBlockIndex s.i = .ok vb ∧
      t = s.withCtx (setOld0 s.ctxA va) (setOld0 s.ctxB vb) := by
  unfold loadOld
  rw [if_pos h]
  simp only [bind_ok_iff]
  constructor
  · rintro ⟨va, ha, vb, hb, ht⟩
    injection ht with ht
    exact ⟨va, vb, ha, hb, ht.symm⟩
  · rintro ⟨va, vb, ha, hb, rfl⟩
    exact ⟨va, ha, vb, hb, rfl⟩

/-- What LoadOld can do: slot 0 of both `last_old` windows, and nothing else. -/
theorem loadOld_ok (h : loadOld s = .ok t) :
    ∃ va vb, t = s.withCtx (setOld0 s.ctxA va) (setOld0 s.ctxB vb) := by
  unfold loadOld at h
  split at h
  · simp only [bind_ok_iff] at h
    obtain ⟨va, -, vb, -, ht⟩ := h
    injection ht with ht
    exact ⟨va, vb, ht.symm⟩
  · injection h with h
    exact ⟨_, _, h.symm⟩

/-- What the store of a pair can do. -/
theorem storePair_ok_iff {pa pb : Sample} :
    storePair pa pb s = .ok t ↔ ∃ a bc,
      memWrite s.lineA s.currentBlockIndex s.i pa = .ok a ∧ memWrite s.lineBC s.currentBlockIndex s.i pb = .ok bc ∧
      t = (s.withLines a bc).withReadCount (s.readValuesCount + 1) := by
  unfold storePair
  simp only [bind_ok_iff]
  constructor
  · rintro ⟨a, ha, bc, hbc, h⟩
    injection h with h
    exact ⟨a, bc, ha, hbc, h.symm⟩
  · rintro ⟨a, bc, ha, hbc, rfl⟩
    exact ⟨a, ha, bc, hbc, rfl⟩

/-- The noise tick writes the counter only. -/
theorem noiseTick_eq : noiseTick s = s.withNoiseCount (s.noiseCount + (quietPixel s.params s.ctxA).toNat) := by
  unfold noiseTick
  cases quietPixel s.params s.ctxA <;> rfl

/-- What the Consume of a whole pair can do. -/
theorem consumeWindow_ok_iff {n : Nat} :
    consumeWindow n s = .ok t ↔ n ≤ Config.peekBits ∧ s.pos + n ≤ s.streamLength ∧ t = s.atPos (s.pos + n) := by
  unfold consumeWindow
  split
  · next h => exact ⟨fun h' => (by cases h'), fun h' => absurd h'.1 (Nat.not_le.mpr h)⟩
  · next h => rw [consume_ok_iff]; exact ⟨fun h' => ⟨Nat.not_lt.mp h, h'⟩, fun h' => h'.2⟩

/-- What VLPAIR can do. -/
theorem vlpair_ok_iff {ca cb : Cls} {lsa lsb : Nat} : vlpair ca lsa cb lsb s = .ok t ↔
    ∃ u, loadOld s = .ok u ∧ vlLength ca cb u ≤ Config.peekBits ∧ u.pos + vlLength ca cb u ≤ u.streamLength ∧
      ∃ w, w = noiseTick (vlSamples ca lsa cb lsb (u.atPos (u.pos + vlLength ca cb u))) ∧
        storePair w.ctxA.lastNew.w0 w.ctxB.lastNew.w0 (shiftBoth w) = .ok t := by
  unfold vlpair
  simp only [bind_ok_iff, consumeWindow_ok_iff]
  constructor
  · rintro ⟨u, hu, v, ⟨hlen, hl, rfl⟩, h⟩
    exact ⟨u, hu, hlen, hl, _, rfl, h⟩
  · rintro ⟨u, hu, hlen, hl, w, rfl, h⟩
    exact ⟨u, hu, _, ⟨hlen, hl, rfl⟩, h⟩

/-- What RAWPAIR can do. -/
theorem rawpair_ok_iff {v1 v2 : Nat} : rawpair v1 v2 s = .ok t ↔
    ∃ u, loadOld s = .ok u ∧ u.pos + u.bp.f + u.bp.f ≤ u.streamLength ∧
      ∃ w, w = shiftBoth (noiseTick ((u.atPos (u.pos + u.bp.f + u.bp.f)).withCtx
          (setNew0 u.ctxA (sampleOf (v1 <<< u.bp.a))) (setNew0 u.ctxB (sampleOf (v2 <<< u.bp.a))))) ∧
        ∃ x, storePair (sampleOf (v1 <<< u.bp.a)) (sampleOf (v2 <<< u.bp.a)) w = .ok x ∧
          t = x.withCtx x.ctxA (setNew0 x.ctxB u.ctxB.lastNew.w0) := by
  unfold rawpair
  simp only [bind_ok_iff, consume_ok_iff]
  constructor
  · rintro ⟨u, hu, v, ⟨-, rfl⟩, w, ⟨hl, rfl⟩, x, hx, h⟩
    injection h with h
    exact ⟨u, hu, hl, _, rfl, x, hx, h.symm⟩
  · rintro ⟨u, hu, hl, w, rfl, x, hx, rfl⟩
    exact ⟨u, hu, _, ⟨by omega, rfl⟩, _, ⟨hl, rfl⟩, x, hx, rfl⟩

/-! ### Blocks -/

/-- Whatever a pair keeps, and the step of `i` keeps, the block body keeps. -/
theorem blockBody_keeps {P : State → Prop}
    (hP : ∀ u v, P u → morePairs u = true → nextPair u = .ok v → P (v.withIndex (v.i + 1)))
    (n : Nat) (h0 : P s) (h : blockBody n s = .ok t) : P t := by
  induction n generalizing s with
  | zero =>
    injection h with h
    exact h ▸ h0
  | succ n ih =>
    rw [blockBody] at h
    split at h
    · next hm =>
      obtain ⟨v, hv, h⟩ := bind_ok_iff.mp h
      exact ih (hP s v h0 hm hv) h
    · injection h with h
      exact h ▸ h0

/-- What the padding of a line can do. -/
theorem padLine_ok_iff :
    padLine s = .ok t ↔ (padDue s = false ∧ t = s) ∨ (padDue s = true ∧ pad s = .ok t) := by
  unfold padLine
  cases padDue s with
  | false => simp [eq_comm]
  | true => simp

/-- What the body of READ_NEXT can do. -/
theorem readBlock_ok_iff : readBlock s = .ok t ↔
    ∃ u v, readHeader s = .ok u ∧ blockBody Config.blockSize (enterBlock u) = .ok v ∧
      ((padDue (leaveBlock v) = false ∧ t = returnComplete (leaveBlock v)) ∨
        (padDue (leaveBlock v) = true ∧ ∃ w, pad (leaveBlock v) = .ok w ∧ t = returnComplete w)) := by
  unfold readBlock
  simp only [bind_ok_iff, padLine_ok_iff]
  constructor
  · rintro ⟨u, hu, v, hv, w, hw, h⟩
    injection h with h
    rcases hw with ⟨hp, rfl⟩ | ⟨hp, hw⟩
    · exact ⟨u, v, hu, hv, .inl ⟨hp, h.symm⟩⟩
    · exact ⟨u, v, hu, hv, .inr ⟨hp, w, hw, h.symm⟩⟩
  · rintro ⟨u, v, hu, hv, ⟨hp, rfl⟩ | ⟨hp, w, hw, rfl⟩⟩
    · exact ⟨u, hu, v, hv, _, .inl ⟨hp, rfl⟩, rfl⟩
    · exact ⟨u, hu, v, hv, w, .inr ⟨hp, hw⟩, rfl⟩

/-- READ_NEXT inside its legality. -/
theorem readNext_ok_iff : readNext s = .ok t ↔ readAllowed s = true ∧ readBlock s = .ok t := by
  unfold readNext
  cases readAllowed s <;> simp

/-- Whatever READ_NEXT keeps, READ_LINE's repetition keeps. -/
theorem readLineLoop_keeps {P : State → Prop} (hP : ∀ u v, P u → readNext u = .ok v → P v)
    (n : Nat) (h0 : P s) (h : readLineLoop n s = .ok t) : P t := by
  induction n generalizing s with
  | zero => exact hP s t h0 h
  | succ n ih =>
    rw [readLineLoop] at h
    obtain ⟨u, hu, h⟩ := bind_ok_iff.mp h
    split at h
    · injection h with h
      exact h ▸ hP s u h0 hu
    · exact ih (hP s u h0 hu) h

/-- When READ_LINE answers, the repetition answered. -/
theorem readLine_ok (h : readLine s = .ok t) :
    ∃ u, readLineLoop (s.params.blocks - s.currentBlockIndex - 1) s = .ok u ∧ t = u.withResult .done := by
  unfold readLine at h
  obtain ⟨u, hu, h⟩ := bind_ok_iff.mp h
  injection h with h
  exact ⟨u, hu, h.symm⟩

/-! ### Commands -/

/-- CONSTRUCT with legal Parameters. -/
theorem execConstruct_legal {P : Parameters} (h : legalParams P = true) :
    execConstruct P s = .next (constructed P s) := by
  simp [execConstruct, construct, h]

/-- CONSTRUCT with any other Parameters takes its fault from the new instance. -/
theorem execConstruct_illegal {P : Parameters} (h : legalParams P = false) :
    execConstruct P s = .next (raise .parameterOutOfRange (newInstance s)) := by
  simp [execConstruct, construct, h]

/-- The cause of a failed CONSTRUCT is its own, from every state. -/
@[simp] theorem raise_newInstance_err (e : ErrCode) : (raise e (newInstance s)).err = e := rfl

@[simp] theorem newInstance_stream : (newInstance s).stream = s.stream := rfl
@[simp] theorem newInstance_port : (newInstance s).port = s.port := rfl
@[simp] theorem newInstance_hookState : (newInstance s).hookState = s.hookState := rfl
@[simp] theorem newInstance_freeCtr : (newInstance s).freeCtr = s.freeCtr := rfl

/-- What FINALIZE_LINE can do. -/
theorem finalizeLine_ok_iff :
    finalizeLine s = .ok t ↔ s.currentLineIndex ≠ BitVec.allOnes 32 ∧
      t = (restartLine (rollUpNoise (runHooks (rotateLines s)))).withResult .done := by
  unfold finalizeLine
  split
  · next h => exact ⟨fun h' => (by cases h'), fun h' => absurd h h'.1⟩
  · next h => exact ⟨fun h' => ⟨h, by injection h' with h'; exact h'.symm⟩, fun h' => congrArg _ h'.2.symm⟩

/-- What an accessor can do. -/
theorem returnWords_ok_iff {b : BlockLine} :
    returnWords b s = .ok t ↔ s.params.valuesPerLine ≤ b.size ∧
      t = s.withResult (.words ((List.range s.params.valuesPerLine).map b.sampleAt)) := by
  unfold returnWords
  simp only [bind_ok_iff, snapshot_ok_iff]
  constructor
  · rintro ⟨ws, ⟨hl, rfl⟩, h⟩
    injection h with h
    exact ⟨hl, h.symm⟩
  · rintro ⟨hl, rfl⟩
    exact ⟨_, ⟨hl, rfl⟩, rfl⟩

/-- What presenting a stream can do. -/
theorem presentStream_next_iff {bits : List Bool} {p : Nat} :
    presentStream bits p s = .next t ↔ p ≤ bits.length ∧ t = s.withStream bits p := by
  unfold presentStream
  split
  · next h => simp [h, eq_comm]
  · next h => simp [h]

/-! ### The canonical form of the whole memory -/

/-- The common tail of the headers keeps it. -/
theorem memoryWf_headerTail {m : Bool} (hw : s.memoryWf = true) (h : headerTail m s = .ok t) : t.memoryWf = true := by
  obtain ⟨-, a, bc, ha, hbc, rfl⟩ := headerTail_ok_iff.mp h
  obtain ⟨h1, h2, h3⟩ := (memoryWf_iff s).mp hw
  exact (memoryWf_iff _).mpr ⟨hdrWrite_wf h1 ha, hdrWrite_wf h2 hbc, h3⟩

/-- The store of a pair keeps it. -/
theorem memoryWf_storePair {pa pb : Sample} (hw : s.memoryWf = true) (h : storePair pa pb s = .ok t) :
    t.memoryWf = true := by
  obtain ⟨a, bc, ha, hbc, rfl⟩ := storePair_ok_iff.mp h
  obtain ⟨h1, h2, h3⟩ := (memoryWf_iff s).mp hw
  exact (memoryWf_iff _).mpr ⟨memWrite_wf h1 ha, memWrite_wf h2 hbc, h3⟩

/-- A fresh buffer is canonical. -/
theorem blankLine_wf (n : Nat) (v : Sample) : (blankLine n v).wf = true := rfl

/-- Construction gives it. -/
theorem memoryWf_constructed (P : Parameters) : (constructed P s).memoryWf = true := rfl

/-- The copies of FINALIZE_LINE keep it. -/
theorem memoryWf_rotateLines (hw : s.memoryWf = true) : (rotateLines s).memoryWf = true := by
  obtain ⟨h1, h2, h3, h4, h5⟩ := (memoryWf_iff s).mp hw
  unfold rotateLines
  split
  · exact (memoryWf_iff _).mpr ⟨h1, h2, h1, h2, h5⟩
  · exact (memoryWf_iff _).mpr ⟨h1, h2, h1, h4, h2⟩

theorem memoryWf_runPostProcessA (hw : s.memoryWf = true) : (runPostProcessA s).memoryWf = true := by
  obtain ⟨h1, h2, -, h4, h5⟩ := (memoryWf_iff s).mp hw
  exact (memoryWf_iff _).mpr ⟨h1, h2, settleAs_wf _ _, h4, h5⟩

theorem memoryWf_runPostProcessB (hw : s.memoryWf = true) : (runPostProcessB s).memoryWf = true := by
  obtain ⟨h1, h2, h3, h4, h5⟩ := (memoryWf_iff s).mp hw
  unfold runPostProcessB
  split
  · exact (memoryWf_iff _).mpr ⟨h1, h2, h3, settleAs_wf _ _, h5⟩
  · exact (memoryWf_iff _).mpr ⟨h1, h2, h3, h4, settleAs_wf _ _⟩

theorem memoryWf_runTruncateA (hw : s.memoryWf = true) : (runTruncateA s).memoryWf = true := by
  obtain ⟨h1, h2, -, h4, h5⟩ := (memoryWf_iff s).mp hw
  exact (memoryWf_iff _).mpr ⟨h1, h2, settleAs_wf _ _, h4, h5⟩

theorem memoryWf_runTruncateB (hw : s.memoryWf = true) : (runTruncateB s).memoryWf = true := by
  obtain ⟨h1, h2, h3, -, h5⟩ := (memoryWf_iff s).mp hw
  exact (memoryWf_iff _).mpr ⟨h1, h2, h3, settleAs_wf _ _, h5⟩

theorem memoryWf_runTruncateC (hw : s.memoryWf = true) : (runTruncateC s).memoryWf = true := by
  obtain ⟨h1, h2, h3, h4, -⟩ := (memoryWf_iff s).mp hw
  exact (memoryWf_iff _).mpr ⟨h1, h2, h3, h4, settleAs_wf _ _⟩

/-- The hooks keep it. -/
theorem memoryWf_runHooks (hw : s.memoryWf = true) : (runHooks s).memoryWf = true :=
  memoryWf_runTruncateC (memoryWf_runTruncateB (memoryWf_runTruncateA
    (memoryWf_runPostProcessB (memoryWf_runPostProcessA hw))))

/-- FINALIZE_LINE keeps it. -/
theorem memoryWf_finalizeLine (hw : s.memoryWf = true) (h : finalizeLine s = .ok t) : t.memoryWf = true := by
  obtain ⟨-, rfl⟩ := finalizeLine_ok_iff.mp h
  generalize hu : runHooks (rotateLines s) = u
  have hw' : u.memoryWf = true := hu ▸ memoryWf_runHooks (memoryWf_rotateLines hw)
  exact hw'

end Sys2Proof.Machine
end

