-- ==== Sys2Proof/Laws/Frames.lean ====
section
/-! SUPPORT. What a header, a pair and a block leave as they were: each next state written as an update of the state before. -/

namespace Sys2Proof.Machine

variable {s t : State}

/-- The state after a header (46_line_decoder.md R162 to R168): `n` bits read, the depth, the mode, the two header entries. -/
def afterHeader (n d : Nat) (m : Bool) (a bc : BlockLine) (s : State) : State :=
  { s with pos := s.pos + n, bitdepthDiff := d, decodingMode := m, lineA := a, lineBC := bc }

/-- The state after a pixel pair (42_block_vl.md R110, 43_block_raw.md R130): `n` bits read, both contexts, the noise count, the
two samples, and the pair counted. -/
def afterPair (n : Nat) (ca cb : Ctx) (q : Bool) (a bc : BlockLine) (s : State) : State :=
  { s with
    pos := s.pos + n, ctxA := ca, ctxB := cb, noiseCount := s.noiseCount + q.toNat, lineA := a, lineBC := bc
    readValuesCount := s.readValuesCount + 1 }

/-- The next state of the common tail of the headers. -/
theorem headerTail_eq {m : Bool} (h : headerTail m s = .ok t) :
    ∃ a bc, t = afterHeader 1 s.bitdepthDiff m a bc s ∧ s.pos + 1 ≤ s.streamLength ∧
      hdrWrite s.lineA s.currentBlockIndex (BitVec.ofNat 4 s.bitdepthDiff) = .ok a ∧
      hdrWrite s.lineBC s.currentBlockIndex (BitVec.ofNat 4 s.bitdepthDiff) = .ok bc := by
  obtain ⟨hl, a, bc, ha, hbc, rfl⟩ := headerTail_ok_iff.mp h
  exact ⟨a, bc, rfl, hl, ha, hbc⟩

/-- The next state of every header: at most 5 bits, a depth in its range unless it is the old one, and both header
entries. -/
theorem readHeader_eq (h : readHeader s = .ok t) :
    ∃ n d m a bc, t = afterHeader n d m a bc s ∧ 1 ≤ n ∧ n ≤ 5 ∧ s.pos + n ≤ s.streamLength ∧
      (d = 0 ∨ d = s.bitdepthDiff ∨ (d ≤ 15 ∧ (d : Int) ≤ s.params.bitdepthReal.toInt)) ∧
      hdrWrite s.lineA s.currentBlockIndex (BitVec.ofNat 4 d) = .ok a ∧
      hdrWrite s.lineBC s.currentBlockIndex (BitVec.ofNat 4 d) = .ok bc := by
  unfold readHeader at h
  split at h
  · next m _ =>
    obtain ⟨a, bc, rfl, hl, ha, hbc⟩ := headerTail_eq (hdrL_ok_iff.mp h)
    exact ⟨1, 0, m, a, bc, rfl, le_refl _, by omega, hl, .inl rfl, ha, hbc⟩
  · next d m _ =>
    obtain ⟨-, hr, h⟩ := hdrF_ok_iff.mp h
    obtain ⟨a, bc, rfl, hl, ha, hbc⟩ := headerTail_eq h
    exact ⟨5, d.toNat, m, a, bc, rfl, by omega, le_refl _, hl, .inr (.inr ⟨by have := d.isLt; omega, hr⟩), ha, hbc⟩
  · next m _ =>
    obtain ⟨-, h⟩ := hdrK_ok_iff.mp h
    obtain ⟨a, bc, rfl, hl, ha, hbc⟩ := headerTail_eq h
    exact ⟨2, s.bitdepthDiff, m, a, bc, rfl, by omega, by omega, hl, .inr (.inl rfl), ha, hbc⟩
  · next code m _ =>
    obtain ⟨-, ⟨h0, h15, hr⟩, h⟩ := hdrD_ok_iff.mp h
    obtain ⟨a, bc, rfl, hl, ha, hbc⟩ := headerTail_eq h
    exact ⟨4, (s.bitdepthDiff + headerDelta code).toNat, m, a, bc, rfl, by omega, by omega, hl,
      .inr (.inr ⟨by omega, by omega⟩), ha, hbc⟩

/-- The next state of VLPAIR. -/
theorem vlpair_eq {ca cb : Cls} {lsa lsb : Nat} (h : vlpair ca lsa cb lsb s = .ok t) :
    ∃ va vb q pa pb a bc, let u := s.withCtx (setOld0 s.ctxA va) (setOld0 s.ctxB vb)
      let w := vlSamples ca lsa cb lsb u
      t = afterPair (vlLength ca cb s) (shiftCtx w.ctxA) (shiftCtx w.ctxB) q a bc s ∧
      vlLength ca cb s ≤ Config.peekBits ∧ s.pos + vlLength ca cb s ≤ s.streamLength ∧
      memWrite s.lineA s.currentBlockIndex s.i pa = .ok a ∧ memWrite s.lineBC s.currentBlockIndex s.i pb = .ok bc := by
  obtain ⟨u, hu, hlen, hl, w, rfl, h⟩ := vlpair_ok_iff.mp h
  obtain ⟨va, vb, rfl⟩ := loadOld_ok hu
  obtain ⟨a, bc, ha, hbc, rfl⟩ := storePair_ok_iff.mp h
  rw [noiseTick_eq] at ha hbc ⊢
  generalize quietPixel _ _ = q at ha hbc ⊢
  exact ⟨va, vb, q, _, _, a, bc, rfl, hlen, hl, ha, hbc⟩

/-- The next state of RAWPAIR. -/
theorem rawpair_eq {v1 v2 : Nat} (h : rawpair v1 v2 s = .ok t) :
    ∃ va vb q a bc, let pa := sampleOf (v1 <<< s.bp.a)
      let pb := sampleOf (v2 <<< s.bp.a)
      t = afterPair (s.bp.f + s.bp.f) (shiftCtx (setNew0 (setOld0 s.ctxA va) pa))
        (setNew0 (shiftCtx (setNew0 (setOld0 s.ctxB vb) pb)) s.ctxB.lastNew.w0) q a bc s ∧
      s.pos + (s.bp.f + s.bp.f) ≤ s.streamLength ∧
      memWrite s.lineA s.currentBlockIndex s.i pa = .ok a ∧ memWrite s.lineBC s.currentBlockIndex s.i pb = .ok bc := by
  obtain ⟨u, hu, hl, w, rfl, x, hx, rfl⟩ := rawpair_ok_iff.mp h
  obtain ⟨va, vb, rfl⟩ := loadOld_ok hu
  simp only [withCtx_bp] at hx hl ⊢
  generalize sampleOf (v1 <<< _) = pa at hx ⊢
  generalize sampleOf (v2 <<< _) = pb at hx ⊢
  obtain ⟨a, bc, ha, hbc, rfl⟩ := storePair_ok_iff.mp hx
  rw [noiseTick_eq] at ha hbc ⊢
  generalize quietPixel _ _ = q at ha hbc ⊢
  rw [Nat.add_assoc] at hl ⊢
  refine ⟨va, vb, q, a, bc, ?_, hl, ha, hbc⟩
  cases s
  rfl

/-- The next state of the pair in a block of either mode; each `g` is the old one or an update of it (42_block_vl.md R120). -/
theorem nextPair_eq (h : nextPair s = .ok t) :
    ∃ n ca cb q pa pb a bc, t = afterPair n ca cb q a bc s ∧ s.pos + n ≤ s.streamLength ∧
      (n ≤ Config.peekBits ∨ n = s.bp.f + s.bp.f) ∧
      memWrite s.lineA s.currentBlockIndex s.i pa = .ok a ∧ memWrite s.lineBC s.currentBlockIndex s.i pb = .ok bc ∧
      (ca.g = s.ctxA.g ∨ ∃ v k, ca.g = updateG v k s.ctxA.g s.params.maxAllowedRawValue.toInt) ∧
      (cb.g = s.ctxB.g ∨ ∃ v k, cb.g = updateG v k s.ctxB.g s.params.maxAllowedRawValue.toInt) := by
  unfold nextPair at h
  split at h
  · obtain ⟨va, vb, q, a, bc, rfl, hl, ha, hbc⟩ := rawpair_eq h
    exact ⟨_, _, _, q, _, _, a, bc, rfl, hl, .inr rfl, ha, hbc, .inl rfl, .inl rfl⟩
  · obtain ⟨va, vb, q, pa, pb, a, bc, rfl, hn, hl, ha, hbc⟩ := vlpair_eq h
    exact ⟨_, _, _, q, pa, pb, a, bc, rfl, hl, .inl hn, ha, hbc, .inr ⟨_, _, rfl⟩, .inr ⟨_, _, rfl⟩⟩

/-- What a block body leaves alone. -/
theorem blockBody_frame {n : Nat} (h : blockBody n s = .ok t) :
    t.st = s.st ∧ t.err = s.err ∧ t.params = s.params ∧ t.bp = s.bp ∧ t.bitdepthDiff = s.bitdepthDiff ∧
      t.decodingMode = s.decodingMode ∧ t.currentLineIndex = s.currentLineIndex ∧
      t.currentBlockIndex = s.currentBlockIndex ∧ t.noiseLevel = s.noiseLevel ∧ t.noiseLevels = s.noiseLevels ∧
      t.lineAPrev = s.lineAPrev ∧ t.lineBPrev = s.lineBPrev ∧ t.lineCPrev = s.lineCPrev ∧ t.stream = s.stream ∧
      t.port = s.port ∧ t.seq = s.seq ∧ t.result = s.result ∧ t.freeCtr = s.freeCtr ∧ t.hookState = s.hookState := by
  refine blockBody_keeps (P := fun u => u.st = s.st ∧ u.err = s.err ∧ u.params = s.params ∧ u.bp = s.bp ∧
    u.bitdepthDiff = s.bitdepthDiff ∧ u.decodingMode = s.decodingMode ∧ u.currentLineIndex = s.currentLineIndex ∧
    u.currentBlockIndex = s.currentBlockIndex ∧ u.noiseLevel = s.noiseLevel ∧ u.noiseLevels = s.noiseLevels ∧
    u.lineAPrev = s.lineAPrev ∧ u.lineBPrev = s.lineBPrev ∧ u.lineCPrev = s.lineCPrev ∧ u.stream = s.stream ∧
    u.port = s.port ∧ u.seq = s.seq ∧ u.result = s.result ∧ u.freeCtr = s.freeCtr ∧ u.hookState = s.hookState)
    ?_ n (by simp) h
  intro u v hu _ hv
  obtain ⟨m, ca, cb, q, pa, pb, a, bc, rfl, -⟩ := nextPair_eq hv
  exact hu

/-- What READ_NEXT leaves alone (46_line_decoder.md R169, R177). -/
theorem readBlock_frame (h : readBlock s = .ok t) :
    t.st = s.st ∧ t.err = s.err ∧ t.params = s.params ∧ t.currentLineIndex = s.currentLineIndex ∧
      t.currentBlockIndex = s.currentBlockIndex + 1 ∧ t.i = 0 ∧ t.noiseLevel = s.noiseLevel ∧
      t.noiseLevels = s.noiseLevels ∧ t.lineAPrev = s.lineAPrev ∧ t.lineBPrev = s.lineBPrev ∧
      t.lineCPrev = s.lineCPrev ∧ t.stream = s.stream ∧ t.port = s.port ∧ t.seq = s.seq ∧ t.freeCtr = s.freeCtr ∧
      t.hookState = s.hookState := by
  obtain ⟨u, v, hu, hv, ht⟩ := readBlock_ok_iff.mp h
  obtain ⟨n, d, m, a, bc, rfl, -⟩ := readHeader_eq hu
  obtain ⟨h1, h2, h3, -, -, -, h7, h8, h9, h10, h11, h12, h13, h14, h15, h16, -, h18, h19⟩ := blockBody_frame hv
  have key : ∀ p, let w := returnComplete ((leaveBlock v).atPos p)
      w.st = s.st ∧ w.err = s.err ∧ w.params = s.params ∧ w.currentLineIndex = s.currentLineIndex ∧
      w.currentBlockIndex = s.currentBlockIndex + 1 ∧ w.i = 0 ∧ w.noiseLevel = s.noiseLevel ∧
      w.noiseLevels = s.noiseLevels ∧ w.lineAPrev = s.lineAPrev ∧ w.lineBPrev = s.lineBPrev ∧
      w.lineCPrev = s.lineCPrev ∧ w.stream = s.stream ∧ w.port = s.port ∧ w.seq = s.seq ∧ w.freeCtr = s.freeCtr ∧
      w.hookState = s.hookState := fun p =>
    ⟨h1, h2, h3, h7, congrArg (· + 1) h8, rfl, h9, h10, h11, h12, h13, h14, h15, h16, h18, h19⟩
  rcases ht with ⟨-, rfl⟩ | ⟨-, w, hw, rfl⟩
  · exact key (leaveBlock v).pos
  · obtain ⟨-, rfl⟩ := alignTo_ok_iff.mp hw
    exact key _

end Sys2Proof.Machine
end

