-- ==== Sys2Proof/Tests/Slice0.lean ====
section
/-! SUPPORT. Tests: the well-formedness smoke test, words written out from the encodings of the spec, one-step vectors of
95_test_vectors.md, and for every obligation with hypotheses a witness that meets them. -/

namespace Sys2Proof.Tests

open Sys2Proof Sys2Proof.Machine

/-! ### Helpers -/

/-- BASE of 95_test_vectors.md. -/
def base : Parameters :=
  { Parameters.zero with
    maxAllowedPixelValue := 4095, maxAllowedRawValue := 4095, maxValuesCount := 16, blocksCount := 1, lossless := true
    bitdepthReal := 12, noiseLevelDistance := 1 }

/-- BASE for a lossy line of three blocks and one pair (V-S5). -/
def short : Parameters := { base with lossless := false, maxValuesCount := 1, blocksCount := 3 }

/-- An ACTIVE instance at the start of a line, with the stream at its start and the BlockParameters of `bitdepth_diff = 0`. -/
def live (P : Parameters) (bs : List Bool) : State :=
  { State.reset with
    st := .active, params := P, bp := blockParams P 0, ctxA := freshCtx P, ctxB := freshCtx P
    lineA := freshLine P, lineBC := freshLine P, lineAPrev := freshLine P, lineBPrev := freshLine P
    lineCPrev := freshLine P, stream := bs }

/-- The instance after the header of a block with `bitdepth_diff = d` in mode `m`. -/
def inBlock (P : Parameters) (d : Nat) (m : Bool) (bs : List Bool) : State :=
  { live P bs with bitdepthDiff := d, decodingMode := m, bp := blockParams P d, seq := .pair }

/-- The line is complete and all its pairs counted. -/
def lineDone (P : Parameters) : State :=
  { live P [] with currentBlockIndex := P.blocks, readValuesCount := P.valuesPerLine }

/-- A poisoned instance with the cause UnexpectedEndOfStream. -/
def poisoned : State := { live base [] with st := .poisoned, err := .unexpectedEndOfStream }

/-- The next state, and power-on where there is none. -/
def nextOf : Out → State
  | .next t => t
  | .fault _ => State.reset
  | .refused _ => State.reset

/-- The outcome is a next state. -/
def goesOn : Out → Bool
  | .next _ => true
  | .fault _ => false
  | .refused _ => false

theorem next_of_goesOn {o : Out} (h : goesOn o = true) : o = .next (nextOf o) := by
  cases o with
  | next t => rfl
  | fault f => cases h
  | refused r => cases h

/-- A bit string of the spec, the first stream bit first. -/
def bits : List Nat → List Bool := List.map (· == 1)

/-! ### Well-formedness: one ill-formed term for each check -/

theorem test_hdrL_lossy_refused : wellFormed (.header false true) (.hdrL true) = false := by decide
theorem test_hdrF_not_first_refused : wellFormed (.header false false) (.hdrF 3 true) = false := by decide
theorem test_hdrF_lossless_refused : wellFormed (.header true true) (.hdrF 3 true) = false := by decide
theorem test_hdrK_first_refused : wellFormed (.header false true) (.hdrK true) = false := by decide
theorem test_hdrD_lossless_refused : wellFormed (.header true false) (.hdrD 1 true) = false := by decide
theorem test_codeword_in_pair_refused : wellFormed (.vlpair 2 2 12) .pfx6 = false := by decide
theorem test_vlpair_lsa_too_wide_refused : wellFormed (.vlpair 2 2 12) (.vlpair 1 4 0 0) = false := by decide
theorem test_vlpair_lsb_too_wide_refused : wellFormed (.vlpair 2 1 12) (.vlpair 1 0 0 2) = false := by decide
theorem test_vlpair_over_window_refused : wellFormed (.vlpair 2 2 16) (.vlpair 12 0 12 0) = false := by decide
theorem test_rawpair_v1_too_wide_refused : wellFormed (.rawpair 8) (.rawpair 256 0) = false := by decide
theorem test_rawpair_v2_too_wide_refused : wellFormed (.rawpair 8) (.rawpair 0 256) = false := by decide
theorem test_rawpair_over_16_bits_refused : wellFormed (.rawpair 17) (.rawpair 0 0) = false := by decide
theorem test_pad_in_header_refused : wellFormed (.header true true) .pad = false := by decide
theorem test_command_in_stream_refused : wellFormed .codeword .readNext = false := by decide
theorem test_element_on_port_refused : wellFormed .port .pad = false := by decide

/-! ### Decoding: every constructor's word written out (30_encoding.md R62 to R75, 95_test_vectors.md 2.1, 2.4) -/

theorem test_decode_headers :
    decode (.header true true) (.bits (bits [1])) = .ok (.hdrL true) ∧
    decode (.header false true) (.bits (bits [1, 0, 1, 0, 1])) = .ok (.hdrF 5 true) ∧
    decode (.header false true) (.bits (bits [0, 0, 1, 1, 0])) = .ok (.hdrF 12 false) ∧
    decode (.header false false) (.bits (bits [0, 1])) = .ok (.hdrK true) ∧
    decode (.header false false) (.bits (bits [1, 1, 0, 0])) = .ok (.hdrD 1 false) ∧
    decode (.header false false) (.bits (bits [1, 0, 1, 1])) = .ok (.hdrD 2 true) := by decide

theorem test_decode_codewords_short :
    decode .codeword (.bits (bits [1])) = .ok .pfx0 ∧
    decode .codeword (.bits (bits [0, 1])) = .ok .pfx1 ∧
    decode .codeword (.bits (bits [0, 0, 1])) = .ok .pfx2 ∧
    decode .codeword (.bits (bits [0, 0, 0, 1])) = .ok .pfx3 ∧
    decode .codeword (.bits (bits [0, 0, 0, 0, 1])) = .ok .pfx4 ∧
    decode .codeword (.bits (bits [0, 0, 0, 0, 0, 1, 0])) = .ok .pfx5 ∧
    decode .codeword (.bits (bits [0, 0, 0, 0, 0, 1, 1])) = .ok .pfx6 := by decide

theorem test_decode_codewords_long :
    decode .codeword (.bits (bits [0, 0, 0, 0, 0, 0, 1, 0])) = .ok .pfx7 ∧
    decode .codeword (.bits (bits [0, 0, 0, 0, 0, 0, 1, 1])) = .ok .pfx8 ∧
    decode .codeword (.bits (bits [0, 0, 0, 0, 0, 0, 0, 1, 0])) = .ok .pfx11 ∧
    decode .codeword (.bits (bits [0, 0, 0, 0, 0, 0, 0, 1, 1])) = .ok .pfx12 ∧
    decode .codeword (.bits (bits [0, 0, 0, 0, 0, 0, 0, 0, 1])) = .ok .pfx10 ∧
    decode .codeword (.bits (bits [0, 0, 0, 0, 0, 0, 0, 0, 0])) = .ok .pfx9 := by decide

/-- P1's second pair: `12:999/12, 2:0/1`. -/
theorem test_decode_vlpair_escape :
    decode (.vlpair 2 1 12) (.bits (bits [0, 0, 0, 0, 0, 0, 0, 1, 1, 0, 0, 1, 1, 1, 1, 0, 0, 1, 1, 1, 1, 1, 0, 0, 0])) =
      .ok (.vlpair 12 999 2 0) := by decide

/-- V-S2's first pair: 171 and 1, eight bits each. -/
theorem test_decode_rawpair :
    decode (.rawpair 8) (.bits (bits [1, 1, 0, 1, 0, 1, 0, 1, 1, 0, 0, 0, 0, 0, 0, 0])) = .ok (.rawpair 171 1) := by decide

theorem test_decode_pad : decode (.pad 38) (.bits (bits [1, 0, 1])) = .ok .pad := by decide

theorem test_decode_commands :
    decode .port (.port 0b000 base) = .ok (.construct base) ∧ decode .port (.port 0b001 .zero) = .ok .readNext ∧
    decode .port (.port 0b010 .zero) = .ok .readLine ∧ decode .port (.port 0b011 .zero) = .ok .finalizeLine ∧
    decode .port (.port 0b100 .zero) = .ok .lineA ∧ decode .port (.port 0b101 .zero) = .ok .lineB ∧
    decode .port (.port 0b110 .zero) = .ok (.reserved false) ∧ decode .port (.port 0b111 .zero) = .ok (.reserved true) := by
  decide

theorem test_decode_rejects :
    decode .codeword (.port 0b001 .zero) = .error .commandCodeInStream ∧
    decode .port (.bits (bits [1])) = .error .streamBitsOnCommandPort := by decide

theorem test_table_words :
    decodeTableWord 16 0x180 = some .pfx12 ∧ decodeTableWord 8 0xC0 = some .pfx8 ∧
    decodeTableWord 8 3 = some .finalizeLine ∧ decodeTableWord 8 0b10101 = some (.hdrF 5 true) := by decide

/-! ### One step of each instruction, expected values from 95_test_vectors.md -/

/-- 2.4: old `bitdepth_diff` 9, ignored. -/
theorem test_hdrL : (nextOf (exec (.hdrL true) (inBlock base 9 false (bits [1])))).bitdepthDiff = 0 := by decide

/-- V-S2's header. -/
theorem test_hdrF :
    let t := nextOf (exec (.hdrF 4 true) (live short (bits [0, 0, 1, 0, 1])))
    t.lineBC.headers = [(0, 4)] ∧ t.decodingMode = true := by decide

/-- 2.4: 13 is above `bitdepth_real = 12`. -/
theorem test_hdrF_out_of_range :
    (nextOf (exec (.hdrF 13 true) (live short (bits [1, 0, 1, 1, 1])))).err = .bitdepthDiffOutOfRange := by decide

/-- 2.4: `0 1` with `bitdepth_diff` 5. -/
theorem test_hdrK :
    let t := nextOf (exec (.hdrK true) (inBlock short 5 false (bits [0, 1])))
    t.bitdepthDiff = 5 ∧ t.decodingMode = true ∧ t.pos = 2 := by decide

/-- 2.4: code 0 subtracts 2. -/
theorem test_hdrD : (nextOf (exec (.hdrD 0 false) (inBlock short 5 true (bits [1, 0, 0, 0])))).bitdepthDiff = 3 := by decide

/-- 2.4: from 1, code 0 falls below 0. -/
theorem test_hdrD_below_zero :
    (nextOf (exec (.hdrD 0 false) (inBlock short 1 true (bits [1, 0, 0, 0])))).err.code = 5 := by decide

/-- 2.1: the classes and sizes. -/
theorem test_codewords :
    [Instr.pfx0, .pfx1, .pfx2, .pfx3, .pfx4, .pfx5, .pfx6, .pfx7, .pfx8, .pfx9, .pfx10, .pfx11, .pfx12].map
      (fun i => (nextOf (exec i State.reset)).result) =
    [.codeword 0 1, .codeword 1 2, .codeword 2 3, .codeword 3 4, .codeword 4 5, .codeword 5 7, .codeword 6 7,
      .codeword 7 8, .codeword 8 8, .codeword 9 9, .codeword 10 9, .codeword 11 9, .codeword 12 9] := by decide

/-- P1's first pair: rows (1,2,2,6,512,+3,515,5,2) and (0,2,1,1,512,-1,511,3,2). -/
theorem test_vlpair :
    let t := nextOf (exec (.vlpair 1 2 0 1)
      (inBlock { base with defaultPixValue := 512 } 0 false (bits [0, 1, 1, 0, 1, 1, 0])))
    t.lineA.samples = [(0, 515)] ∧ t.lineBC.samples = [(0, 511)] ∧ t.ctxA.g = 5 ∧ t.ctxB.g = 3 ∧ t.pos = 7 := by decide

/-- 2.5 (iii): 50 bits exceed the window. -/
theorem test_vlpair_window :
    (nextOf (exec (.vlpair 12 0 12 0) (inBlock { base with bitdepthReal := 16 } 0 false []))).err.code = 6 := by decide

/-- V-S2's first pair: `171 << 4`, `1 << 4`; slot 0 of B restored, slot 1 propagated. -/
theorem test_rawpair :
    let t := nextOf (exec (.rawpair 171 1) (inBlock short 4 true (List.replicate 16 true)))
    t.lineA.samples = [(0, 2736)] ∧ t.lineBC.samples = [(0, 16)] ∧ t.ctxB.lastNew = ⟨0, 16, 0⟩ ∧ t.ctxA.g = 4 := by decide

/-- V-S4: 97 to 256 with `align_mode = 1`, and 128 stays with `align_mode = 0`. -/
theorem test_pad :
    (nextOf (exec .pad ((live { base with alignMode := 1 } (List.replicate 256 true)).atPos 97))).pos = 256 ∧
    (nextOf (exec .pad ((live base (List.replicate 256 true)).atPos 128))).pos = 128 := by decide +kernel

/-- 2.9: from POISONED, `CONSTRUCT BASE` leads to ACTIVE with `err = 0` and `g = 4`. -/
theorem test_construct :
    let t := nextOf (exec (.construct base) poisoned)
    t.st = .active ∧ t.err.code = 0 ∧ t.ctxA.g = 4 ∧ t.lineCPrev = blankLine 1 0 := by decide

/-- 2.9: `max_values_count = 17` with one block, and `bayer_pattern = 4` from "any" state, here POISONED with `err = 1`. -/
theorem test_construct_out_of_range :
    (nextOf (exec (.construct { base with maxValuesCount := 17 }) State.reset)).err.code = 2 ∧
    (nextOf (exec (.construct { base with bayerPattern := 4 }) poisoned)).err.code = 2 := by decide

/-- P4a: the first READ_NEXT. -/
theorem test_readNext :
    let t := nextOf (exec .readNext
      (live { short with blocksCount := 2 } (bits [1, 0, 0, 0, 0, 1, 1, 0, 0, 0, 0, 1, 0, 0, 1])))
    t.result = .lineComplete false ∧ t.pos = 11 ∧ t.bp = ⟨1, 2, 0, 2048, 11, 11⟩ ∧ t.ctxB.g = 2 := by decide +kernel

/-- 2.9: UNCONFIGURED. -/
theorem test_readNext_unconfigured : (nextOf (exec .readNext State.reset)).err.code = 4 := by decide

/-- V-S5: the header entries 5, 6, 4. -/
theorem test_readLine :
    let t := nextOf (exec .readLine (live short
      (bits [1, 0, 1, 0, 1, 1, 0, 1, 0, 1, 0, 1, 0, 1, 0, 1, 0, 1, 0, 1, 0, 1, 1, 1, 0, 0, 1])))
    t.lineA.headers = [(0, 5), (1, 6), (2, 4)] ∧ t.lineA.samples = [(0, 2720)] ∧ t.pos = 27 := by decide +kernel

/-- 46_line_decoder.md R172: the line index and the contexts after FINALIZE_LINE. -/
theorem test_finalizeLine :
    let t := nextOf (exec .finalizeLine (lineDone base))
    t.currentLineIndex = 1 ∧ t.currentBlockIndex = 0 ∧ t.ctxA = ⟨4, ⟨0, 0, 0⟩, ⟨0, 0, 0⟩⟩ := by decide

/-- 2.9: block 0 of 1 pending. -/
theorem test_finalizeLine_early : (nextOf (exec .finalizeLine (live base []))).err.code = 4 := by decide

/-- V-S5: `LINE_A` returns 2720. -/
theorem test_lineA :
    (nextOf (exec .lineA ((live short []).withLines ⟨3, 0, [(0, 2720)], []⟩ (blankLine 3 0)))).result = .words [2720] := by
  decide

/-- V-S5: `LINE_B` returns 1344. -/
theorem test_lineB :
    (nextOf (exec .lineB ((live short []).withLines (blankLine 3 0) ⟨3, 0, [(0, 1344)], []⟩))).result = .words [1344] := by
  decide

/-- 2.9: `LINE_A` and cmd 111 in POISONED, and cmd 110 in ACTIVE. -/
theorem test_reserved :
    (nextOf (exec (.reserved false) (live base []))).err.code = 3 ∧
    (nextOf (exec (.reserved true) poisoned)).err.code = 1 ∧ (nextOf (exec .lineA poisoned)).result = .refused := by decide

/-- P4b in small: the pair at the end of the stream needs 10 bits, one is left. -/
theorem test_step_end_of_stream :
    (nextOf (step (inBlock base 0 false (bits [1])))).err.code = 1 := by decide

/-! ### Witnesses: states and operands that meet the hypotheses of the obligations, clause by clause -/

/-- BASE with samples up to 15 bits: the pair of 48 bits (95_test_vectors.md 2.5 ii). -/
def wide : Parameters :=
  { base with bitdepthReal := 15, maxAllowedPixelValue := 32767, maxAllowedRawValue := 65535, maxValuesCount := 1 }

/-- The invariant of a state that holds it by evaluation. -/
theorem inv_of_parts {s : State}
    (h : (s.seq = .command ∧ s.pos ≤ s.streamLength ∧ s.memoryWf = true ∧ (s.err = .none ↔ s.st ≠ .poisoned)))
    (ha : legalParams s.params = true)
    (hb : ∀ b ∈ [s.lineA, s.lineBC, s.lineAPrev, s.lineBPrev, s.lineCPrev],
      b.blocks = s.params.blocks ∧ b.fill = s.params.defaultPixValue)
    (hc : s.currentBlockIndex ≤ s.params.blocks ∧
      s.readValuesCount = min (Config.blockSize * s.currentBlockIndex) s.params.valuesPerLine ∧ s.i = 0 ∧
      s.bitdepthDiff ≤ 15 ∧ (s.bitdepthDiff : Int) ≤ s.params.bitdepthReal.toInt)
    (hd : 1 ≤ s.ctxA.g ∧ (s.ctxA.g : Int) ≤ s.params.maxAllowedRawValue.toInt ∧
      1 ≤ s.ctxB.g ∧ (s.ctxB.g : Int) ≤ s.params.maxAllowedRawValue.toInt ∧ s.noiseCount ≤ s.readValuesCount) :
    s.Inv := by
  refine ⟨h.1, h.2.1, h.2.2.1, h.2.2.2, fun _ => ⟨ha, hb _ ?_, hb _ ?_, hb _ ?_, hb _ ?_, hb _ ?_, hc.1, hc.2.1,
    hc.2.2.1, hc.2.2.2.1, hc.2.2.2.2, hd⟩⟩ <;> simp

theorem witness_DecodeReadsBackWhatEncodeWrites :
    wellFormed (.vlpair 6 6 15) (.vlpair 12 32767 12 16383) = true ∧ wellFormed (.rawpair 16) (.rawpair 65535 0) = true ∧
    wellFormed (.header false true) (.hdrF 15 true) = true ∧ wellFormed (.header false false) (.hdrD 3 false) = true ∧
    wellFormed .codeword .pfx12 = true ∧ wellFormed (.pad 255) .pad = true ∧ wellFormed .port (.construct base) = true ∧
    encode .codeword .pfx5 = .bits (bits [0, 0, 0, 0, 0, 1, 0]) := by decide

theorem witness_EncodedElementsHaveTheTablesLengths :
    wellFormed (.vlpair 6 6 15) (.vlpair 12 32767 12 16383) = true ∧ commandCode (.vlpair 12 32767 12 16383) = none ∧
    wellFormed (.header true true) (.hdrL true) = true ∧ commandCode (.hdrL true) = none := by decide

theorem witness_ConsumeFaultsOrMovesPos :
    (live base []).pos + 1 > (live base []).stream.length ∧
    (live base (bits [1])).pos + 1 ≤ (live base (bits [1])).stream.length := by decide

theorem witness_StoredSampleIsReadBack : (blankLine 2 7).wf = true ∧ 1 < (blankLine 2 7).blocks ∧ 15 < 16 := by decide

theorem witness_StoredHeaderEntryIsReadBack : (blankLine 2 7).wf = true ∧ 1 < (blankLine 2 7).blocks := by decide

theorem witness_DerivedParametersFollowTheRules :
    let s := inBlock wide 15 true []
    legalParams s.params = true ∧ s.bitdepthDiff ≤ 15 ∧ (s.bitdepthDiff : Int) ≤ s.params.bitdepthReal.toInt := by decide

theorem witness_FoldingPeriodExceedsTheRange : legalParams wide = true ∧ 15 ≤ 15 := by decide

theorem witness_LsbWidthIsTheCappedBitWidth : 127 < 128 ∧ 128 ≤ 128 ∧ 5 < lsbK 127 := by decide

theorem witness_FixPredictionIsTheFoldedMedian :
    max (100 : Int) 104 ≤ 104 ∧ (min (100 : Int) 104 < 101 ∧ (101 : Int) < max 100 104) ∧
    ((100 : Int) ≤ min 100 104 ∧ (100 : Int) < max 100 104) := by decide

/-- The call site's numbers for `a = 2`, `max_allowed_pixel_value = 4095` (95_test_vectors.md 2.5), at the ends of each case. -/
theorem witness_UnmodIsIdempotentExactlyInRange :
    (-2 : Int) < -1 ∧ ((-1 : Int) ≤ 4097 ∧ (1 : Int) + 4095 < 4097) ∧ ((-1 : Int) ≤ -1 ∧ (-1 : Int) ≤ 1 + 4095) ∧
    (4 : Int) * 1025 ≠ 0 := by decide

/-- 95_test_vectors.md 2.5: (47,2,4,4095), (48,2,4,4095), the tight (65536,6,65536) and the clamped (4096,2,4,100). -/
theorem witness_UpdatedEstimateStaysInRange :
    (4 : Int) ≤ 4095 ∧ 1 ≤ 4 ∧ ((4 : Nat) : Int) ≤ 4095 ∧ 65536 ≤ 65536 ∧ 47 / 2 ^ 2 ≤ 11 ∧ 48 / 2 ^ 2 > 11 ∧
    (4 : Int) ≤ 100 ∧ ((4 : Nat) : Int) ≤ 100 ∧ 4096 / 2 ^ 2 > 11 ∧ ((4096 : Nat) : Int) > 100 := by decide

/-- 95_test_vectors.md 2.5: the value cut to `max_allowed_raw_value`, and the bound of R147 reached. -/
theorem test_updateG : updateG 4096 2 4 100 = 52 ∧ updateG 65536 6 65536 2147483647 = 65536 := by decide

/-- 95_test_vectors.md 2.5 (iv): the value 6, `k = 2`, `f = 12`. -/
theorem witness_EscapeAndPlainFormsDecodeAlike :
    1 ≤ 6 ∧ 6 ≤ 2 ^ (blockParams base 0).f ∧ 6 / 2 ^ 2 = (1 : Cls).val ∧ (1 : Cls).val ≤ 11 := by decide

theorem witness_ResidualReachesEverySampleLosslessly :
    legalParams base = true ∧ (0 : Int) ≤ 4095 ∧ (4095 : Int) ≤ base.maxAllowedPixelValue.toInt := by decide

theorem witness_VlSamplesStayBelowTheCeiling : legalParams base = true := by decide

/-! The headers: the block exists, and the stream ends with the header, inside it, or where the range check stands. -/

theorem witness_currentBlockExists (bs : List Bool) : (inBlock short 5 false bs).currentBlockExists := by
  unfold State.currentBlockExists
  exact ⟨rfl, rfl, (by decide : 0 < short.blocks), (by decide : 0 < short.blocks)⟩

theorem witness_HdrLSetsDepthZeroAndMode :
    0 + 1 ≤ (inBlock short 5 false (bits [1])).stream.length ∧ 0 + 1 > (inBlock short 5 false []).stream.length := by decide

theorem witness_HdrFSetsDepthFromFourBits :
    0 + 5 ≤ (inBlock short 5 false (bits [1, 0, 1, 0, 1])).stream.length ∧
    ((12 : BitVec 4).toNat : Int) ≤ short.bitdepthReal.toInt ∧ ((13 : BitVec 4).toNat : Int) > short.bitdepthReal.toInt ∧
    0 + 4 > (inBlock short 5 false (bits [1, 0, 1])).stream.length ∧
    0 + 4 = (inBlock short 5 false (bits [1, 0, 1, 0])).stream.length := by decide

theorem witness_HdrKKeepsDepth :
    0 + 2 ≤ (inBlock short 5 false (bits [0, 1])).stream.length ∧
    0 + 2 > (inBlock short 5 false (bits [0])).stream.length := by decide

/-- From 14 the code 2 gives 15 with `bitdepth_real = 15`; from 1 the code 0 gives -1; from 15 the code 2 gives 16. -/
theorem witness_HdrDAddsTheCodedDelta :
    (15 : Int) = ((inBlock wide 14 true (bits [1, 0, 1, 1])).bitdepthDiff : Int) + 1 ∧ (15 : Int) ≤ 15 ∧
    (15 : Int) ≤ wide.bitdepthReal.toInt ∧ 0 + 4 ≤ (inBlock wide 14 true (bits [1, 0, 1, 1])).stream.length ∧
    (-1 : Int) = ((inBlock wide 1 true (bits [1, 0, 0])).bitdepthDiff : Int) + -2 ∧
    0 + 3 = (inBlock wide 1 true (bits [1, 0, 0])).stream.length ∧
    (16 : Int) = ((inBlock wide 15 true (bits [1, 0, 1])).bitdepthDiff : Int) + 1 ∧ (16 : Int) > 15 ∧
    0 + 3 > (inBlock wide 14 true (bits [1, 0])).stream.length := by decide

/-! The pairs: on line 0, and on a later line, where the buffers above are read. -/

theorem witness_pairPositionExists (P : Parameters) (d : Nat) (m : Bool) (bs : List Bool) (n : U32)
    (h : 0 < P.blocks) :
    let s : State := { inBlock P d m bs with currentLineIndex := n, i := 15 }
    s.pairPositionExists := by
  refine ⟨⟨rfl, rfl, h, h⟩, (by decide : 15 < 16), fun _ => ⟨h, ?_⟩⟩
  split <;> exact h

/-- The pair of exactly 48 bits at the end of the stream. -/
theorem witness_VlpairDecodesOnePixelPair :
    let s : State := { inBlock wide 0 false (List.replicate 48 true) with currentLineIndex := 1, i := 15 }
    0 < wide.blocks ∧
    prefixSize 12 + prefixSize 12 + s.bp.f + s.bp.f ≤ 48 ∧ s.pos + 48 ≤ s.stream.length := by decide

theorem witness_VlpairFaultsOnWindowThenOnStreamEnd :
    let s : State := { inBlock { base with bitdepthReal := 16 } 0 false (bits [1]) with currentLineIndex := 1, i := 15 }
    0 < base.blocks ∧ s.bp.f = 16 ∧ s.bp.f ≤ 16 ∧ prefixSize 12 + prefixSize 12 + s.bp.f + s.bp.f > 48 ∧
    prefixSize 0 + prefixSize 12 + lsbK s.ctxA.g + s.bp.f ≤ 48 ∧
    s.pos + (prefixSize 0 + prefixSize 12 + lsbK s.ctxA.g + s.bp.f) > s.stream.length ∧
    (inBlock wide 0 false []).bp.f ≤ 15 := by decide

theorem witness_RawpairStoresShiftedSamples :
    0 < short.blocks ∧
    (inBlock short 4 true (List.replicate 16 true)).pos + 2 * (inBlock short 4 true []).bp.f ≤
      (inBlock short 4 true (List.replicate 16 true)).stream.length ∧
    (inBlock short 4 true (List.replicate 15 true)).pos + 2 * (inBlock short 4 true []).bp.f >
      (inBlock short 4 true (List.replicate 15 true)).stream.length := by decide

/-- V-S4's rows: from 97 to 256, from 128 nowhere, and a stream that ends at 255. -/
theorem witness_PadMovesToTheNextBoundary :
    (256 = if ({ base with alignMode := 1 } : Parameters).alignMode = 1 then 256 else 128) ∧ 256 ∣ 256 ∧ 97 ≤ 256 ∧
    256 < 97 + 256 ∧ (128 = if base.alignMode = 1 then 256 else 128) ∧ 128 ∣ 128 ∧ 128 ≤ 128 ∧ 128 < 128 + 128 ∧
    256 ≤ 256 ∧ 256 > 255 := by decide

/-! The commands. -/

/-- Legal Parameters, Parameters that miss one range, and an instance of each kind. -/
theorem witness_ConstructResetsTheInstance :
    ((base.defaultPixValue.toNat : Int) ≤ base.maxAllowedPixelValue.toInt ∧
      0 ≤ base.maxAllowedPixelValue.toInt ∧ base.maxAllowedPixelValue.toInt ≤ 65535 ∧
      base.maxAllowedRawValue.toInt ≥ 4 ∧ base.blocksCount.toInt ≥ 1 ∧
      1 ≤ base.maxValuesCount.toInt ∧ base.maxValuesCount.toInt ≤ base.blocksCount.toInt * 16 ∧
      (base.alignMode = 0 ∨ base.alignMode = 1) ∧
      1 ≤ base.bitdepthReal.toInt ∧ base.bitdepthReal.toInt ≤ 16 ∧ base.bayerPattern.toNat ≤ 3) ∧
    ¬ ({ base with bayerPattern := 4 } : Parameters).bayerPattern.toNat ≤ 3 ∧
    State.reset.st ≠ .poisoned ∧ poisoned.st = .poisoned := by decide

/-- The lossy line of three blocks, with bits enough for READ_NEXT; every bit 0, so the header is HDR.F 0, 0. -/
theorem witness_ReadNextDecodesOneBlock :
    let s := live short (List.replicate 1028 false)
    s.Inv ∧ s.st = .active ∧ s.currentBlockIndex < s.params.blocks ∧ s.params.bitdepthReal.toInt ≤ 15 ∧
      s.headerInRange ∧ s.pos + 1028 ≤ s.stream.length := by
  refine ⟨inv_of_parts ?_ ?_ ?_ ?_ ?_, rfl, ?_, ?_, .inr (.inl ⟨rfl, ?_⟩), ?_⟩ <;> decide +kernel

/-- The last of one block, with `stride`: the padding of the line. -/
theorem witness_ReadNextDecodesOneBlock_stride :
    let s := live { base with stride := true, alignMode := 1 } (List.replicate 1028 true)
    s.Inv ∧ s.st = .active ∧ s.currentBlockIndex + 1 = s.params.blocks ∧ s.params.bitdepthReal.toInt ≤ 15 ∧
      s.headerInRange ∧ s.pos + 1028 ≤ s.stream.length ∧ s.params.stride = true := by
  refine ⟨inv_of_parts ?_ ?_ ?_ ?_ ?_, rfl, ?_, ?_, .inl rfl, ?_, rfl⟩ <;> decide +kernel

theorem witness_ReadNextIsItsElementsInOrder :
    (live short []).st = .active ∧ (live short []).seq = .command ∧
      (live short []).currentBlockIndex < (live short []).params.blocks := by decide

/-- READ_NEXT answers, and the line goes on; it is complete after the last block; it faults on an empty stream. -/
theorem witness_ReadLineIsReadNextRepeated :
    (∃ t, exec .readNext (live short (bits [1, 0, 0, 0, 0, 1, 1, 0, 0, 0, 0])) = .next t ∧ t.st = .active ∧
      t.currentBlockIndex ≠ 3) ∧
    (∃ t, exec .readNext (live wide (bits [0, 1, 1, 0, 0, 0, 0])) = .next t ∧ t.st = .active ∧ t.currentBlockIndex = 1) ∧
    (∃ t, exec .readNext (live short []) = .next t ∧ t.st = .poisoned) := by
  refine ⟨⟨_, next_of_goesOn ?_, ?_, ?_⟩, ⟨_, next_of_goesOn ?_, ?_, ?_⟩, ⟨_, next_of_goesOn ?_, ?_⟩⟩ <;> decide +kernel

theorem witness_ReadLineCompletesTheLine :
    let s := live base (List.replicate 1024 true)
    s.Inv ∧ s.st = .active ∧ s.currentBlockIndex < s.params.blocks ∧ s.params.lossless = true ∧
      s.params.bitdepthReal.toInt ≤ 15 ∧
      s.pos + 769 * (s.params.blocks - s.currentBlockIndex) + 255 ≤ s.stream.length := by
  refine ⟨inv_of_parts ?_ ?_ ?_ ?_ ?_, rfl, ?_, rfl, ?_, ?_⟩ <;> decide +kernel

/-- At the last index from which the step is taken, and at the one from which it is refused. -/
theorem witness_FinalizeLineRotatesHooksAndRestarts :
    (lineDone base).st = .active ∧ (lineDone base).currentBlockIndex = (lineDone base).params.blocks ∧
    (0xFFFFFFFE : U32).toNat < 2 ^ 32 - 1 := by decide

theorem witness_LastLineIndexRefusesFinalize :
    let s : State := { lineDone base with currentLineIndex := 0xFFFFFFFF }
    s.st = .active ∧ s.currentBlockIndex = s.params.blocks ∧ s.currentLineIndex.toNat = 2 ^ 32 - 1 := by decide

theorem witness_HookResultsStandInTheirBuffers :
    let b : BlockLine := ⟨2, 7, [(31, 1)], [(1, 3)]⟩
    b.wf = true ∧ b.blocks = (blankLine 2 7).blocks ∧ b.fill = (blankLine 2 7).fill ∧ 31 < b.blocks * 16 ∧ 1 < b.blocks := by
  decide

theorem witness_AccessorsReturnTheLine :
    (live base []).st = .active ∧ (live base []).params.valuesPerLine = 16 * (live base []).lineA.blocks ∧
    (live base []).params.valuesPerLine ≤ 16 * (live base []).lineBC.blocks ∧ 15 < (live base []).params.valuesPerLine := by
  decide

theorem witness_ReservedCodesRaiseNotImplemented : State.reset.st ≠ .poisoned ∧ (live base []).st ≠ .poisoned := by decide

theorem witness_DisallowedCommandsRaiseInvalidState :
    State.reset.st = .unconfigured ∧ (lineDone base).st = .active ∧
    (lineDone base).params.blocks ≤ (lineDone base).currentBlockIndex ∧ (live base []).st = .active ∧
    (live base []).currentBlockIndex ≠ (live base []).params.blocks := by decide

theorem witness_PoisonedInstanceRefusesCommands : poisoned.st = .poisoned := by decide

theorem witness_OnlyConstructLeavesPoisoned :
    ∃ t, exec .pad poisoned = .next t ∧ poisoned.st = .poisoned ∧ ∀ P, Instr.pad ≠ .construct P :=
  ⟨_, next_of_goesOn (by decide), rfl, fun _ => nofun⟩

theorem witness_ParametersAndLineIndexHaveTheirWriters :
    (∃ t, exec .pad (live base []) = .next t ∧ t.st ≠ .poisoned ∧ ∀ P, Instr.pad ≠ .construct P) ∧
    (∃ t, exec .finalizeLine (lineDone base) = .next t ∧ t.st ≠ .poisoned) :=
  ⟨⟨_, next_of_goesOn (by decide), by decide, fun _ => nofun⟩, ⟨_, next_of_goesOn (by decide), by decide⟩⟩

theorem witness_NoInstructionWritesTheStream :
    ∃ t, exec (.hdrL true) (inBlock base 0 false (bits [1])) = .next t ∧ t.st ≠ .poisoned :=
  ⟨_, next_of_goesOn (by decide), by decide⟩

theorem witness_PreviousLinesAndNoiseLevelHaveTheirWriters :
    ∃ t, exec (.vlpair 0 0 0 0) (inBlock base 0 false (bits [1, 1, 0, 0, 0, 0])) = .next t ∧ t.st ≠ .poisoned :=
  ⟨_, next_of_goesOn (by decide), by decide⟩

/-! The step. -/

theorem witness_StepRunsTheCommandOnThePort :
    let s := State.reset.withPort [.command 0b000 base, .command 0b001 .zero]
    s.seq = .command ∧ s.port = .command 0b000 base :: [.command 0b001 .zero] ∧
    decode .port (.port 0b000 base) = .ok (.construct base) := by decide

/-- A pair that decodes, is well formed and goes on; and one whose buffer has no such block. -/
theorem witness_StepRunsTheElementAtPos :
    let s := inBlock base 0 false (bits [1, 1, 0, 0, 0, 0])
    s.seq ≠ .command ∧ decode (fetchCtx s) (.bits (s.stream.drop s.pos)) = .ok (.vlpair 0 0 0 0) ∧
    wellFormed (fetchCtx s) (.vlpair 0 0 0 0) = true ∧ goesOn (exec (.vlpair 0 0 0 0) s) = true ∧
    exec (.vlpair 0 0 0 0) (s.withBlock 1) = .fault .bufferPositionDoesNotExist :=
  ⟨by decide, by decide, by decide, by decide, rfl⟩

/-- A header with any `f`; a raw pair and a VL pair with `f = 16` and 15; one escape and two at `f = 16`. -/
theorem witness_EveryBitStringParses :
    let raw := inBlock { base with bitdepthReal := 16 } 0 true []
    let vl := inBlock { base with bitdepthReal := 16 } 0 false []
    let bs := bits [0, 0, 0, 0, 0, 0, 0, 1, 1, 1]
    let esc := bits [0, 0, 0, 0, 0, 0, 0, 1, 1, 0, 0, 0, 0, 0, 0, 0, 1, 1]
    ((live base []).withSeq .header).seq ≠ .command ∧ ((live base []).withSeq .header).seq ≠ .pair ∧
    raw.seq = .pair ∧ raw.decodingMode = true ∧ raw.bp.f = 16 ∧
    (inBlock wide 0 false []).seq = .pair ∧ (inBlock wide 0 false []).bp.f = 15 ∧
    vl.seq = .pair ∧ vl.decodingMode = false ∧ vl.bp.f = 16 ∧
    decode (fetchCtx vl) (.bits bs) = .ok (.vlpair 12 0 0 0) ∧ wellFormed (fetchCtx vl) (.vlpair 12 0 0 0) = true ∧
    decode (fetchCtx vl) (.bits esc) = .ok (.vlpair 12 0 12 0) ∧ wellFormed (fetchCtx vl) (.vlpair 12 0 12 0) = false := by
  decide

theorem witness_HostPresentsAStreamBetweenTransactions :
    let s := State.reset.withPort [.present (bits [1, 0]) 2]
    s.seq = .command ∧ s.port = .present (bits [1, 0]) 2 :: [] ∧ 2 ≤ (bits [1, 0]).length ∧ (bits [1]).length < 2 := by decide

/-- A step of an ACTIVE instance that meets the invariant: READ_NEXT on the port. -/
theorem witness_EveryStepKeepsTheInvariant :
    let s := (live short (bits [1, 0, 0, 0, 0, 1, 1, 0, 0, 0, 0])).withPort [.command 0b001 .zero]
    s.Inv ∧ ∃ t, step s = .next t ∧ t.st = .active ∧ t.currentBlockIndex = 1 := by
  refine ⟨inv_of_parts ?_ ?_ ?_ ?_ ?_, _, next_of_goesOn ?_, ?_, ?_⟩ <;> decide +kernel

/-- The two refusals, each from a state that meets the invariant. -/
theorem witness_NoStepFaultsBetweenTransactions :
    (let s : State := { lineDone base with currentLineIndex := 0xFFFFFFFF, port := [.command 0b011 .zero] }
     s.Inv ∧ step s = .refused .lineIndexOverflow) ∧
    (let s := (live base []).withPort [.present [] 1]
     s.Inv ∧ step s = .refused .streamPositionBeyondEnd) := by
  refine ⟨⟨inv_of_parts ?_ ?_ ?_ ?_ ?_, rfl⟩, inv_of_parts ?_ ?_ ?_ ?_ ?_, rfl⟩ <;> decide +kernel

theorem witness_CompleteLineHasAllItsPairs :
    let s := live wide (bits [0, 1, 1, 0, 0, 0, 0])
    s.Inv ∧ s.st = .active ∧ ∃ t, exec .readNext s = .next t ∧ t.st = .active ∧ t.result = .lineComplete true := by
  refine ⟨inv_of_parts ?_ ?_ ?_ ?_ ?_, rfl, _, next_of_goesOn ?_, ?_, ?_⟩ <;> decide +kernel

end Sys2Proof.Tests
end

section
/-! SUPPORT. How the operations stop. Inside an element, and inside every command but FINALIZE_LINE, an operation stops
with a fault of the spec that names its cause or with a fault of the model; it never refuses (60_exceptions.md R190,
70_reset_and_hazards.md R229). -/

namespace Sys2Proof.Machine

/-- A stop that is no refusal, and that names its cause when it is a fault of the spec. -/
def Stop.Orderly : Stop → Prop
  | .raised e => e ≠ .none
  | .fault _ => True
  | .refused _ => False

/-- The operation answers, or stops with an orderly stop. -/
def StopsOrderly {α : Type} (r : Res α) : Prop := ∀ e, r = .error e → e.Orderly

section Combinators

variable {α β : Type} {x y : Res α}

theorem stopsOrderly_ok (a : α) : StopsOrderly (.ok a : Res α) := nofun

theorem stopsOrderly_error_iff {e : Stop} : StopsOrderly (.error e : Res α) ↔ e.Orderly :=
  ⟨fun h => h e rfl, fun h _ he => Except.error.inj he ▸ h⟩

theorem stopsOrderly_raised {e : ErrCode} (h : e ≠ .none) : StopsOrderly (.error (.raised e) : Res α) :=
  stopsOrderly_error_iff.mpr h

theorem stopsOrderly_fault (f : Fault) : StopsOrderly (.error (.fault f) : Res α) :=
  stopsOrderly_error_iff.mpr trivial

theorem StopsOrderly.bind {f : α → Res β} (hx : StopsOrderly x) (hf : ∀ a, StopsOrderly (f a)) :
    StopsOrderly (x >>= f) := by
  cases x with
  | ok a => exact hf a
  | error e => exact stopsOrderly_error_iff.mpr (hx e rfl)

theorem StopsOrderly.ite {c : Prop} [Decidable c] (hx : StopsOrderly x) (hy : StopsOrderly y) :
    StopsOrderly (if c then x else y) := by
  split
  · exact hx
  · exact hy

end Combinators

variable (s : State)

/-! ### The BitSource port and the buffers -/

theorem consume_stopsOrderly (n : Nat) : StopsOrderly (consume n s) :=
  .ite (stopsOrderly_raised nofun) (stopsOrderly_ok _)

theorem consumeWindow_stopsOrderly (n : Nat) : StopsOrderly (consumeWindow n s) :=
  .ite (stopsOrderly_raised nofun) (consume_stopsOrderly s n)

theorem alignTo_stopsOrderly (B : Nat) : StopsOrderly (alignTo B s) :=
  .ite (stopsOrderly_raised nofun) (stopsOrderly_ok _)

theorem memRead_stopsOrderly (b : BlockLine) (blk i : Nat) : StopsOrderly (memRead b blk i) :=
  .ite (stopsOrderly_ok _) (stopsOrderly_fault _)

theorem memWrite_stopsOrderly (b : BlockLine) (blk i : Nat) (v : Sample) : StopsOrderly (memWrite b blk i v) :=
  .ite (stopsOrderly_ok _) (stopsOrderly_fault _)

theorem hdrWrite_stopsOrderly (b : BlockLine) (blk : Nat) (v : HdrVal) : StopsOrderly (hdrWrite b blk v) :=
  .ite (stopsOrderly_ok _) (stopsOrderly_fault _)

theorem snapshot_stopsOrderly (b : BlockLine) (n : Nat) : StopsOrderly (snapshot b n) :=
  .ite (stopsOrderly_ok _) (stopsOrderly_fault _)

/-! ### Headers -/

theorem checkRange_stopsOrderly (diff : Int) : StopsOrderly (checkRange diff s) :=
  .ite (stopsOrderly_raised nofun) (stopsOrderly_ok _)

theorem headerTail_stopsOrderly (m : Bool) : StopsOrderly (headerTail m s) :=
  (consume_stopsOrderly s 1).bind fun _ => (hdrWrite_stopsOrderly _ _ _).bind fun _ =>
    (hdrWrite_stopsOrderly _ _ _).bind fun _ => stopsOrderly_ok _

theorem hdrL_stopsOrderly (m : Bool) : StopsOrderly (hdrL m s) := headerTail_stopsOrderly _ m

theorem hdrF_stopsOrderly (d : BitVec 4) (m : Bool) : StopsOrderly (hdrF d m s) :=
  (consume_stopsOrderly s 4).bind fun _ => (checkRange_stopsOrderly _ _).bind fun _ => headerTail_stopsOrderly _ m

theorem hdrK_stopsOrderly (m : Bool) : StopsOrderly (hdrK m s) :=
  (consume_stopsOrderly s 1).bind fun _ => headerTail_stopsOrderly _ m

theorem hdrD_stopsOrderly (code : BitVec 2) (m : Bool) : StopsOrderly (hdrD code m s) :=
  (consume_stopsOrderly s 1).bind fun _ => (consume_stopsOrderly _ 2).bind fun _ =>
    (checkRange_stopsOrderly _ _).bind fun _ => headerTail_stopsOrderly _ m

theorem readHeader_stopsOrderly : StopsOrderly (readHeader s) := by
  unfold readHeader
  split
  · exact hdrL_stopsOrderly s _
  · exact hdrF_stopsOrderly s _ _
  · exact hdrK_stopsOrderly s _
  · exact hdrD_stopsOrderly s _ _

/-! ### Pairs -/

theorem loadOld_stopsOrderly : StopsOrderly (loadOld s) :=
  .ite ((memRead_stopsOrderly _ _ _).bind fun _ => (memRead_stopsOrderly _ _ _).bind fun _ => stopsOrderly_ok _)
    (stopsOrderly_ok _)

theorem storePair_stopsOrderly (pa pb : Sample) : StopsOrderly (storePair pa pb s) :=
  (memWrite_stopsOrderly _ _ _ _).bind fun _ => (memWrite_stopsOrderly _ _ _ _).bind fun _ => stopsOrderly_ok _

theorem vlpair_stopsOrderly (ca : Cls) (lsa : Nat) (cb : Cls) (lsb : Nat) : StopsOrderly (vlpair ca lsa cb lsb s) :=
  (loadOld_stopsOrderly s).bind fun _ => (consumeWindow_stopsOrderly _ _).bind fun _ => storePair_stopsOrderly _ _ _

theorem rawpair_stopsOrderly (v1 v2 : Nat) : StopsOrderly (rawpair v1 v2 s) :=
  (loadOld_stopsOrderly s).bind fun _ => (consume_stopsOrderly _ _).bind fun _ =>
    (consume_stopsOrderly _ _).bind fun _ => (storePair_stopsOrderly _ _ _).bind fun _ => stopsOrderly_ok _

theorem nextPair_stopsOrderly : StopsOrderly (nextPair s) :=
  .ite (rawpair_stopsOrderly s _ _) (vlpair_stopsOrderly s _ _ _ _)

/-! ### Blocks and lines -/

theorem blockBody_stopsOrderly (n : Nat) : StopsOrderly (blockBody n s) := by
  induction n generalizing s with
  | zero => exact stopsOrderly_ok s
  | succ n ih => exact .ite ((nextPair_stopsOrderly s).bind fun _ => ih _) (stopsOrderly_ok s)

theorem pad_stopsOrderly : StopsOrderly (pad s) := alignTo_stopsOrderly s _

theorem padLine_stopsOrderly : StopsOrderly (padLine s) := .ite (pad_stopsOrderly s) (stopsOrderly_ok s)

theorem readBlock_stopsOrderly : StopsOrderly (readBlock s) :=
  (readHeader_stopsOrderly s).bind fun _ => (blockBody_stopsOrderly _ _).bind fun _ =>
    (padLine_stopsOrderly _).bind fun _ => stopsOrderly_ok _

theorem readNext_stopsOrderly : StopsOrderly (readNext s) :=
  .ite (readBlock_stopsOrderly s) (stopsOrderly_raised nofun)

theorem readLineLoop_stopsOrderly (n : Nat) : StopsOrderly (readLineLoop n s) := by
  induction n generalizing s with
  | zero => exact readNext_stopsOrderly s
  | succ n ih => exact (readNext_stopsOrderly s).bind fun u => .ite (stopsOrderly_ok u) (ih u)

theorem readLine_stopsOrderly : StopsOrderly (readLine s) :=
  (readLineLoop_stopsOrderly s _).bind fun _ => stopsOrderly_ok _

theorem returnWords_stopsOrderly (b : BlockLine) : StopsOrderly (returnWords b s) :=
  (snapshot_stopsOrderly b _).bind fun _ => stopsOrderly_ok _

/-! ### From operations to instructions -/

/-- An instruction whose operations stop orderly is never refused. -/
theorem finish_ne_refused {r : Res State} (h : StopsOrderly r) (why : Refusal) : finish s r ≠ .refused why := by
  intro hr
  cases r with
  | ok t => cases hr
  | error e =>
    cases e with
    | raised e => cases hr
    | fault f => cases hr
    | refused q => exact h _ rfl

/-- No element of the stream is refused (70_reset_and_hazards.md R229). -/
theorem exec_element_ne_refused {i : Instr} (h : commandCode i = none) (why : Refusal) : exec i s ≠ .refused why := by
  cases i with
  | hdrL m => exact finish_ne_refused s (hdrL_stopsOrderly s m) why
  | hdrF d m => exact finish_ne_refused s (hdrF_stopsOrderly s d m) why
  | hdrK m => exact finish_ne_refused s (hdrK_stopsOrderly s m) why
  | hdrD code m => exact finish_ne_refused s (hdrD_stopsOrderly s code m) why
  | vlpair ca lsa cb lsb => exact finish_ne_refused s (vlpair_stopsOrderly s ca lsa cb lsb) why
  | rawpair v1 v2 => exact finish_ne_refused s (rawpair_stopsOrderly s v1 v2) why
  | pad => exact finish_ne_refused s (pad_stopsOrderly s) why
  | pfx0 | pfx1 | pfx2 | pfx3 | pfx4 | pfx5 | pfx6 | pfx7 | pfx8 | pfx9 | pfx10 | pfx11 | pfx12 => exact nofun
  | construct _ | readNext | readLine | finalizeLine | lineA | lineB | reserved _ => cases h

end Sys2Proof.Machine
end

section
/-! SUPPORT. What an instruction without a fault leaves of the Parameters and of the line index (10_state.md R17, R18). -/

namespace Sys2Proof.Machine

variable {s t : State}

/-! ### Outcomes without a fault -/

/-- When an instruction does not end in POISONED, its operations answered. -/
theorem ok_of_finish {r : Res State} (h : finish s r = .next t) (ht : t.st ≠ .poisoned) : r = .ok t := by
  rcases finish_next_iff.mp h with h | ⟨e, -, rfl⟩
  · exact h
  · exact absurd (raise_st e) ht

/-- When a command does not end in POISONED, it was allowed and its body answered. -/
theorem ok_of_command {allowed : Bool} {body : Res State} (h : command s allowed body = .next t)
    (ht : t.st ≠ .poisoned) : allowed = true ∧ body = .ok t := by
  rcases command_next_iff.mp h with ⟨hs, rfl⟩ | ⟨-, ha, h⟩ | ⟨-, -, rfl⟩
  · exact absurd hs ht
  · exact ⟨ha, ok_of_finish h ht⟩
  · exact absurd (raise_st _) ht

/-! ### The operations that keep both -/

/-- `t` has the Parameters and the line index of `s`. -/
def SameLine (s t : State) : Prop := t.params = s.params ∧ t.currentLineIndex = s.currentLineIndex

theorem SameLine.refl (s : State) : SameLine s s := ⟨rfl, rfl⟩

theorem SameLine.trans {u : State} (h : SameLine s u) (h' : SameLine u t) : SameLine s t :=
  ⟨h'.1.trans h.1, h'.2.trans h.2⟩

theorem sameLine_atPos (s : State) (p : Nat) : SameLine s (s.atPos p) := ⟨rfl, rfl⟩

theorem sameLine_withDiff (s : State) (d : Nat) : SameLine s (s.withDiff d) := ⟨rfl, rfl⟩

theorem sameLine_of_headerTail {m : Bool} (h : headerTail m s = .ok t) : SameLine s t := by
  obtain ⟨a, bc, rfl, -⟩ := headerTail_eq h
  exact ⟨rfl, rfl⟩

theorem sameLine_of_hdrL {m : Bool} (h : hdrL m s = .ok t) : SameLine s t :=
  (sameLine_withDiff s 0).trans (sameLine_of_headerTail h)

theorem sameLine_of_hdrF {d : BitVec 4} {m : Bool} (h : hdrF d m s = .ok t) : SameLine s t := by
  obtain ⟨-, -, htail⟩ := hdrF_ok_iff.mp h
  exact (sameLine_atPos s _).trans ((sameLine_withDiff _ _).trans (sameLine_of_headerTail htail))

theorem sameLine_of_hdrK {m : Bool} (h : hdrK m s = .ok t) : SameLine s t := by
  obtain ⟨-, htail⟩ := hdrK_ok_iff.mp h
  exact (sameLine_atPos s _).trans (sameLine_of_headerTail htail)

theorem sameLine_of_hdrD {code : BitVec 2} {m : Bool} (h : hdrD code m s = .ok t) : SameLine s t := by
  obtain ⟨-, -, htail⟩ := hdrD_ok_iff.mp h
  exact (sameLine_atPos s _).trans ((sameLine_withDiff _ _).trans (sameLine_of_headerTail htail))

theorem sameLine_of_vlpair {ca cb : Cls} {lsa lsb : Nat} (h : vlpair ca lsa cb lsb s = .ok t) : SameLine s t := by
  obtain ⟨va, vb, q, pa, pb, a, bc, rfl, -⟩ := vlpair_eq h
  exact ⟨rfl, rfl⟩

theorem sameLine_of_rawpair {v1 v2 : Nat} (h : rawpair v1 v2 s = .ok t) : SameLine s t := by
  obtain ⟨va, vb, q, a, bc, rfl, -⟩ := rawpair_eq h
  exact ⟨rfl, rfl⟩

theorem sameLine_of_pad (h : pad s = .ok t) : SameLine s t := by
  obtain ⟨-, rfl⟩ := alignTo_ok_iff.mp h
  exact ⟨rfl, rfl⟩

theorem sameLine_of_readNext (h : readNext s = .ok t) : SameLine s t := by
  obtain ⟨-, -, hp, hl, -⟩ := readBlock_frame (readNext_ok_iff.mp h).2
  exact ⟨hp, hl⟩

theorem sameLine_of_readLine (h : readLine s = .ok t) : SameLine s t := by
  obtain ⟨u, hu, rfl⟩ := readLine_ok h
  have hsu : SameLine s u :=
    readLineLoop_keeps (P := SameLine s) (fun _ _ hs hn => hs.trans (sameLine_of_readNext hn)) _ (.refl s) hu
  exact ⟨hsu.1, hsu.2⟩

theorem sameLine_of_returnWords {b : BlockLine} (h : returnWords b s = .ok t) : SameLine s t := by
  obtain ⟨-, rfl⟩ := returnWords_ok_iff.mp h
  exact ⟨rfl, rfl⟩

theorem sameLine_of_returnCodeword {c : Cls} (h : returnCodeword c s = .next t) : SameLine s t := by
  cases h
  exact ⟨rfl, rfl⟩

/-- Every instruction but CONSTRUCT and FINALIZE_LINE keeps the Parameters and the line index when it does not fault. -/
theorem sameLine_of_exec {i : Instr} (h : exec i s = .next t) (ht : t.st ≠ .poisoned)
    (hc : ∀ P, i ≠ .construct P) (hf : i ≠ .finalizeLine) : SameLine s t := by
  cases i with
  | hdrL m => exact sameLine_of_hdrL (ok_of_finish h ht)
  | hdrF d m => exact sameLine_of_hdrF (ok_of_finish h ht)
  | hdrK m => exact sameLine_of_hdrK (ok_of_finish h ht)
  | hdrD code m => exact sameLine_of_hdrD (ok_of_finish h ht)
  | pfx0 | pfx1 | pfx2 | pfx3 | pfx4 | pfx5 | pfx6 | pfx7 | pfx8 | pfx9 | pfx10 | pfx11 | pfx12 =>
    exact sameLine_of_returnCodeword h
  | vlpair ca lsa cb lsb => exact sameLine_of_vlpair (ok_of_finish h ht)
  | rawpair v1 v2 => exact sameLine_of_rawpair (ok_of_finish h ht)
  | pad => exact sameLine_of_pad (ok_of_finish h ht)
  | construct P => exact absurd rfl (hc P)
  | readNext => exact sameLine_of_readNext (ok_of_command h ht).2
  | readLine => exact sameLine_of_readLine (ok_of_command h ht).2
  | finalizeLine => exact absurd rfl hf
  | lineA | lineB => exact sameLine_of_returnWords (ok_of_command h ht).2
  | reserved odd => cases (ok_of_command h ht).2

/-! ### FINALIZE_LINE -/

/-- `new` has the blocks and the fill of `old`. -/
def SameShape (old new : BlockLine) : Prop := new.blocks = old.blocks ∧ new.fill = old.fill

theorem SameShape.refl (b : BlockLine) : SameShape b b := ⟨rfl, rfl⟩

theorem SameShape.trans {a b c : BlockLine} (h : SameShape a b) (h' : SameShape b c) : SameShape a c :=
  ⟨h'.1.trans h.1, h'.2.trans h.2⟩

theorem sameShape_settleAs (shape b : BlockLine) : SameShape shape (settleAs shape b) := ⟨rfl, rfl⟩

/-- The three previous-line buffers and the hooks' own state. -/
def State.withPrevLines (s : State) (a b c : BlockLine) (hooks : Nat) : State :=
  { s with lineAPrev := a, lineBPrev := b, lineCPrev := c, hookState := hooks }

/-- From `s` to `t` the hooks wrote: contents of the previous-line buffers and their own state, no buffer's shape. -/
def HooksWrote (s t : State) : Prop :=
  ∃ a b c hooks, t = s.withPrevLines a b c hooks ∧
    SameShape s.lineAPrev a ∧ SameShape s.lineBPrev b ∧ SameShape s.lineCPrev c

theorem HooksWrote.trans {u : State} (h : HooksWrote s u) (h' : HooksWrote u t) : HooksWrote s t := by
  obtain ⟨a, b, c, k, rfl, ha, hb, hc⟩ := h
  obtain ⟨a', b', c', k', rfl, ha', hb', hc'⟩ := h'
  exact ⟨a', b', c', k', rfl, ha.trans ha', hb.trans hb', hc.trans hc'⟩

theorem hooksWrote_runPostProcessA (s : State) : HooksWrote s (runPostProcessA s) :=
  ⟨_, _, _, _, rfl, sameShape_settleAs _ _, .refl _, .refl _⟩

theorem hooksWrote_runPostProcessB (s : State) : HooksWrote s (runPostProcessB s) := by
  unfold runPostProcessB
  split
  · exact ⟨_, _, _, _, rfl, .refl _, sameShape_settleAs _ _, .refl _⟩
  · exact ⟨_, _, _, _, rfl, .refl _, .refl _, sameShape_settleAs _ _⟩

theorem hooksWrote_runTruncateA (s : State) : HooksWrote s (runTruncateA s) :=
  ⟨_, _, _, _, rfl, sameShape_settleAs _ _, .refl _, .refl _⟩

theorem hooksWrote_runTruncateB (s : State) : HooksWrote s (runTruncateB s) :=
  ⟨_, _, _, _, rfl, .refl _, sameShape_settleAs _ _, .refl _⟩

theorem hooksWrote_runTruncateC (s : State) : HooksWrote s (runTruncateC s) :=
  ⟨_, _, _, _, rfl, .refl _, .refl _, sameShape_settleAs _ _⟩

/-- What the five hooks of a line can do together (46_line_decoder.md R173). -/
theorem hooksWrote_runHooks (s : State) : HooksWrote s (runHooks s) :=
  (hooksWrote_runPostProcessA s).trans <| (hooksWrote_runPostProcessB _).trans <|
    (hooksWrote_runTruncateA _).trans <| (hooksWrote_runTruncateB _).trans (hooksWrote_runTruncateC _)

/-- What the copies at the end of a line can do (20_memory.md R53): each previous-line buffer becomes a copy of a current one or
stays as it was. -/
theorem rotateLines_eq (s : State) :
    ∃ b c, rotateLines s = s.withPrevLines s.lineA b c s.hookState ∧
      (b = s.lineBC ∨ b = s.lineBPrev) ∧ (c = s.lineBC ∨ c = s.lineCPrev) := by
  unfold rotateLines
  split
  · exact ⟨_, _, rfl, .inl rfl, .inr rfl⟩
  · exact ⟨_, _, rfl, .inr rfl, .inl rfl⟩

/-- The next state of FINALIZE_LINE: the restart of a state in which each previous-line buffer
has the shape of the buffer it is a copy of. -/
theorem finalizeLine_eq (h : finalizeLine s = .ok t) :
    s.currentLineIndex ≠ BitVec.allOnes 32 ∧ ∃ a b c hooks,
      t = (restartLine (rollUpNoise (s.withPrevLines a b c hooks))).withResult .done ∧
      SameShape s.lineA a ∧ (SameShape s.lineBC b ∨ SameShape s.lineBPrev b) ∧
      (SameShape s.lineBC c ∨ SameShape s.lineCPrev c) := by
  obtain ⟨hl, rfl⟩ := finalizeLine_ok_iff.mp h
  obtain ⟨b, c, hrot, hb, hc⟩ := rotateLines_eq s
  obtain ⟨a', b', c', k', hrun, ha', hb', hc'⟩ := hooksWrote_runHooks (rotateLines s)
  rw [hrun]
  rw [hrot] at ha' hb' hc' ⊢
  refine ⟨hl, a', b', c', k', rfl, ha', ?_, ?_⟩
  · exact hb.imp (by rintro rfl; exact hb') (by rintro rfl; exact hb')
  · exact hc.imp (by rintro rfl; exact hc') (by rintro rfl; exact hc')

/-- The line index after FINALIZE_LINE: there is no wrap-around, since the last index is refused (R18). -/
theorem finalizeLine_lineIndex (h : finalizeLine s = .ok t) :
    t.params = s.params ∧ t.currentLineIndex.toNat = s.currentLineIndex.toNat + 1 := by
  obtain ⟨hl, a, b, c, hooks, rfl, -⟩ := finalizeLine_eq h
  refine ⟨rfl, ?_⟩
  have hne : s.currentLineIndex.toNat ≠ 2 ^ 32 - 1 := fun h => hl (BitVec.eq_of_toNat_eq h)
  change (s.currentLineIndex + 1).toNat = _
  bv_omega

end Sys2Proof.Machine
end

section
/-! SUPPORT. The invariant of `Safety.lean` inside a block (10_state.md R14, R24): what holds at every pixel pair of an ACTIVE
decoder, and that each part of READ_NEXT keeps it. -/

namespace Sys2Proof.Machine

variable {s t : State}

/-! ### Legal Parameters -/

/-- The bounds on the Parameters that the invariant uses (00_scope.md R6). -/
theorem legalParams_bounds {P : Parameters} (h : legalParams P = true) :
    4 ≤ P.maxAllowedRawValue.toInt ∧ 1 ≤ P.bitdepthReal.toInt ∧
      P.valuesPerLine ≤ Config.blockSize * P.blocks := by
  simp only [legalParams, Bool.and_eq_true, decide_eq_true_eq, and_assoc] at h
  obtain ⟨-, -, -, hraw, hblocks, hvalues, hpairs, -, hdepth, -⟩ := h
  refine ⟨hraw, hdepth, ?_⟩
  simp only [Parameters.valuesPerLine, Parameters.blocks, Config.blockSize] at *
  omega

/-- The update of `g` stays between 1 and `max_allowed_raw_value` (42_block_vl.md R120, 10_state.md R24). -/
theorem updateG_mem_range (value k : Nat) {g : Nat} {R : Int} (hR : 4 ≤ R) (h1 : 1 ≤ g) (hg : (g : Int) ≤ R) :
    1 ≤ updateG value k g R ∧ (updateG value k g R : Int) ≤ R := by
  have key (v : Nat) : ((clamp v 0 R).toNat : Int) ≤ R := by
    unfold clamp
    split
    · omega
    · split <;> omega
  unfold updateG
  generalize (if value >>> k > Config.maxClassPlain then value - 1 else value) = v
  have hv := key v
  dsimp only
  constructor <;> omega

/-! ### The invariant inside a block -/

/-- All five buffers have the shape the Parameters fix. -/
def State.LinesShaped (s : State) : Prop :=
  s.shaped s.lineA ∧ s.shaped s.lineBC ∧ s.shaped s.lineAPrev ∧ s.shaped s.lineBPrev ∧ s.shaped s.lineCPrev

/-- The `g` of a context is in its range (10_state.md R24). -/
def Ctx.InRange (P : Parameters) (c : Ctx) : Prop := 1 ≤ c.g ∧ (c.g : Int) ≤ P.maxAllowedRawValue.toInt

/-- What holds of an ACTIVE decoder at position `i` of a block. At `i = 0` it is what the invariant says of the decoder between
transactions (`midBlock_of_inv`, `MidBlock.activeInv`). -/
structure State.MidBlock (s : State) : Prop where
  inStream : s.pos ≤ s.streamLength
  canonical : s.memoryWf = true
  legal : legalParams s.params = true
  shaped : s.LinesShaped
  block : s.currentBlockIndex ≤ s.params.blocks
  count : s.readValuesCount = min (Config.blockSize * s.currentBlockIndex + s.i) s.params.valuesPerLine
  index : s.i ≤ Config.blockSize
  depth : s.bitdepthDiff ≤ 15 ∧ (s.bitdepthDiff : Int) ≤ s.params.bitdepthReal.toInt
  rangeA : s.ctxA.InRange s.params
  rangeB : s.ctxB.InRange s.params
  quiet : s.noiseCount ≤ s.readValuesCount

theorem midBlock_of_inv (h : s.Inv) (hs : s.st = .active) : s.MidBlock ∧ s.i = 0 := by
  obtain ⟨-, hpos, hmem, -, hact⟩ := h
  obtain ⟨hlegal, hA, hBC, hAP, hBP, hCP, hblk, hcount, hi, hd, hd', hgA, hgA', hgB, hgB', hq⟩ := hact hs
  exact ⟨{ inStream := hpos, canonical := hmem, legal := hlegal, shaped := ⟨hA, hBC, hAP, hBP, hCP⟩, block := hblk
           count := by rw [hi, Nat.add_zero]; exact hcount
           index := by omega
           depth := ⟨hd, hd'⟩, rangeA := ⟨hgA, hgA'⟩, rangeB := ⟨hgB, hgB'⟩, quiet := hq }, hi⟩

theorem State.MidBlock.activeInv (h : s.MidBlock) (hi : s.i = 0) : s.ActiveInv := by
  obtain ⟨hA, hBC, hAP, hBP, hCP⟩ := h.shaped
  have hcount : s.readValuesCount = min (Config.blockSize * s.currentBlockIndex) s.params.valuesPerLine := by
    have := h.count
    rwa [hi, Nat.add_zero] at this
  exact ⟨h.legal, hA, hBC, hAP, hBP, hCP, h.block, hcount, hi, h.depth.1, h.depth.2, h.rangeA.1, h.rangeA.2,
    h.rangeB.1, h.rangeB.2, h.quiet⟩

/-! ### Stores keep the shape of the buffers and their canonical form -/

/-- New current buffers of the old shape, canonical: the memory stays canonical and the buffers keep their shape. -/
theorem linesKept_of_sameShape {a bc : BlockLine} (hw : s.memoryWf = true) (hs : s.LinesShaped)
    (ha : a.wf = true) (hbc : bc.wf = true) (ha' : SameShape s.lineA a) (hbc' : SameShape s.lineBC bc) :
    (s.withLines a bc).memoryWf = true ∧ (s.withLines a bc).LinesShaped := by
  obtain ⟨-, -, hprev⟩ := (memoryWf_iff s).mp hw
  obtain ⟨hA, hBC, hshapes⟩ := hs
  exact ⟨(memoryWf_iff _).mpr ⟨ha, hbc, hprev⟩, ⟨ha'.1.trans hA.1, ha'.2.trans hA.2⟩,
    ⟨hbc'.1.trans hBC.1, hbc'.2.trans hBC.2⟩, hshapes⟩

/-- The two header entries of a block. -/
theorem linesKept_of_hdrWrite {blk : Nat} {v : HdrVal} {a bc : BlockLine} (hw : s.memoryWf = true) (hs : s.LinesShaped)
    (ha : hdrWrite s.lineA blk v = .ok a) (hbc : hdrWrite s.lineBC blk v = .ok bc) :
    (s.withLines a bc).memoryWf = true ∧ (s.withLines a bc).LinesShaped := by
  obtain ⟨hA, hBC, -⟩ := (memoryWf_iff s).mp hw
  obtain ⟨hba, hfa, -⟩ := hdrWrite_shape ha
  obtain ⟨hbbc, hfbc, -⟩ := hdrWrite_shape hbc
  exact linesKept_of_sameShape hw hs (hdrWrite_wf hA ha) (hdrWrite_wf hBC hbc) ⟨hba, hfa⟩ ⟨hbbc, hfbc⟩

/-- The two samples of a pair. -/
theorem linesKept_of_memWrite {blk i : Nat} {pa pb : Sample} {a bc : BlockLine} (hw : s.memoryWf = true)
    (hs : s.LinesShaped) (ha : memWrite s.lineA blk i pa = .ok a) (hbc : memWrite s.lineBC blk i pb = .ok bc) :
    (s.withLines a bc).memoryWf = true ∧ (s.withLines a bc).LinesShaped := by
  obtain ⟨hA, hBC, -⟩ := (memoryWf_iff s).mp hw
  obtain ⟨hba, hfa, -⟩ := memWrite_shape ha
  obtain ⟨hbbc, hfbc, -⟩ := memWrite_shape hbc
  exact linesKept_of_sameShape hw hs (memWrite_wf hA ha) (memWrite_wf hBC hbc) ⟨hba, hfa⟩ ⟨hbbc, hfbc⟩

/-! ### The parts of READ_NEXT keep it -/

theorem midBlock_readHeader (h : s.MidBlock) (hr : readHeader s = .ok t) : t.MidBlock ∧ t.i = s.i := by
  obtain ⟨n, d, m, a, bc, rfl, -, -, hpos, hd, ha, hbc⟩ := readHeader_eq hr
  obtain ⟨-, hreal, -⟩ := legalParams_bounds h.legal
  obtain ⟨hw, hs⟩ := linesKept_of_hdrWrite h.canonical h.shaped ha hbc
  have hdepth : d ≤ 15 ∧ (d : Int) ≤ s.params.bitdepthReal.toInt := by
    rcases hd with rfl | rfl | hd
    · omega
    · exact h.depth
    · exact hd
  exact ⟨{ h with inStream := hpos, canonical := hw, shaped := hs, depth := hdepth }, rfl⟩

theorem midBlock_enterBlock (h : s.MidBlock) (hi : s.i = 0) : (enterBlock s).MidBlock :=
  { h with
    count := by
      have hcount := h.count
      rwa [hi] at hcount
    index := Nat.zero_le _ }

/-- An old `g` in its range, or an update of it, is in its range. -/
theorem Ctx.InRange.of_update {P : Parameters} {c c' : Ctx} (hP : legalParams P = true) (hc : c.InRange P)
    (h : c'.g = c.g ∨ ∃ v k, c'.g = updateG v k c.g P.maxAllowedRawValue.toInt) : c'.InRange P := by
  obtain ⟨hraw, -⟩ := legalParams_bounds hP
  unfold Ctx.InRange
  rcases h with h | ⟨v, k, h⟩
  · rw [h]
    exact hc
  · rw [h]
    exact updateG_mem_range v k hraw hc.1 hc.2

/-- One round of the block body (42_block_vl.md R110, 43_block_raw.md R134): the pair is counted, and a quiet pixel counts once. -/
theorem midBlock_nextPair (h : s.MidBlock) (hm : morePairs s = true) (hp : nextPair s = .ok t) :
    (t.withIndex (t.i + 1)).MidBlock := by
  obtain ⟨n, ca, cb, q, pa, pb, a, bc, rfl, hpos, -, ha, hbc, hca, hcb⟩ := nextPair_eq hp
  obtain ⟨hw, hs⟩ := linesKept_of_memWrite h.canonical h.shaped ha hbc
  obtain ⟨hi, hv⟩ : s.i < Config.blockSize ∧ s.readValuesCount < s.params.valuesPerLine := by
    simpa [morePairs] using hm
  have hcount : s.readValuesCount + 1 =
      min (Config.blockSize * s.currentBlockIndex + (s.i + 1)) s.params.valuesPerLine := by
    have := h.count
    omega
  have hquiet : s.noiseCount + q.toNat ≤ s.readValuesCount + 1 := Nat.add_le_add h.quiet q.toNat_le
  exact { h with
    inStream := hpos, canonical := hw, shaped := hs, count := hcount, index := hi
    rangeA := h.rangeA.of_update h.legal hca, rangeB := h.rangeB.of_update h.legal hcb, quiet := hquiet }

theorem midBlock_blockBody {n : Nat} (h : s.MidBlock) (hb : blockBody n s = .ok t) : t.MidBlock :=
  blockBody_keeps (fun _ _ hu hm hv => midBlock_nextPair hu hm hv) n h hb

/-- The rounds are enough: when the block body answers, the block is over. -/
theorem morePairs_blockBody {n : Nat} (hn : Config.blockSize ≤ s.i + n) (h : blockBody n s = .ok t) :
    morePairs t = false := by
  induction n generalizing s with
  | zero =>
    cases h
    simp only [morePairs, Bool.and_eq_false_iff, decide_eq_false_iff_not]
    omega
  | succ n ih =>
    rw [blockBody] at h
    split at h
    · obtain ⟨u, hu, h⟩ := bind_ok_iff.mp h
      obtain ⟨m, ca, cb, q, pa, pb, a, bc, rfl, -⟩ := nextPair_eq hu
      refine ih ?_ h
      change Config.blockSize ≤ s.i + 1 + n
      omega
    · next hm =>
      cases h
      exact Bool.eq_false_iff.mpr hm

/-- At the end of a block the pairs of all its positions are counted, or all pairs of the line. -/
theorem midBlock_leaveBlock (h : s.MidBlock) (hm : morePairs s = false)
    (hb : s.currentBlockIndex < s.params.blocks) : (leaveBlock s).MidBlock := by
  have hcount : s.readValuesCount =
      min (Config.blockSize * (s.currentBlockIndex + 1) + 0) s.params.valuesPerLine := by
    have hcount := h.count
    have hindex := h.index
    simp only [morePairs, Bool.and_eq_false_iff, decide_eq_false_iff_not] at hm
    simp only [Config.blockSize] at *
    omega
  exact { h with block := hb, count := hcount, index := Nat.zero_le _ }

theorem midBlock_pad (h : s.MidBlock) (hp : pad s = .ok t) : t.MidBlock ∧ t.i = s.i := by
  obtain ⟨hl, rfl⟩ := alignTo_ok_iff.mp hp
  exact ⟨{ h with inStream := hl }, rfl⟩

theorem midBlock_returnComplete (h : s.MidBlock) : (returnComplete s).MidBlock := { h with }

/-- READ_NEXT decodes a whole block: the next state is at the start of the next one. -/
theorem midBlock_readBlock (h : s.MidBlock) (hi : s.i = 0) (hb : s.currentBlockIndex < s.params.blocks)
    (hr : readBlock s = .ok t) : t.MidBlock := by
  obtain ⟨u, v, hu, hv, ht⟩ := readBlock_ok_iff.mp hr
  obtain ⟨hmu, hiu⟩ := midBlock_readHeader h hu
  have hmv : v.MidBlock := midBlock_blockBody (midBlock_enterBlock hmu (hiu.trans hi)) hv
  have hover : morePairs v = false := morePairs_blockBody (Nat.le_add_left _ _) hv
  have hbv : v.currentBlockIndex < v.params.blocks := by
    obtain ⟨n, d, m, a, bc, rfl, -⟩ := readHeader_eq hu
    obtain ⟨-, -, hpar, -, -, -, -, hblk, -⟩ := blockBody_frame hv
    rw [hpar, hblk]
    exact hb
  have hleft : (leaveBlock v).MidBlock := midBlock_leaveBlock hmv hover hbv
  rcases ht with ⟨-, rfl⟩ | ⟨-, w, hw, rfl⟩
  · exact midBlock_returnComplete hleft
  · exact midBlock_returnComplete (midBlock_pad hleft hw).1

end Sys2Proof.Machine
end

section
/-! SUPPORT. The invariant between transactions is kept by every command, by a fault and by the host (10_state.md R11 to R24,
60_exceptions.md R196, R201). -/

namespace Sys2Proof.Machine

variable {s t : State}

/-! ### Fault entry -/

/-- A fault that names its cause leads into the invariant, if POISONED had a cause before. -/
theorem inv_raise {e : ErrCode} (he : e ≠ .none) (hs : s.st = .poisoned → s.err ≠ .none) : (raise e s).Inv := by
  have herr : (raise e s).err ≠ .none := by
    rw [raise_err]
    split
    · next hp => exact hs hp
    · exact he
  exact ⟨raise_seq e, raise_pos_le e, memoryWf_raise e s, iff_of_false herr (not_not_intro (raise_st e)),
    fun h => absurd h (by rw [raise_st]; decide)⟩

theorem err_ne_none_of_inv (h : s.Inv) (hp : s.st = .poisoned) : s.err ≠ .none := by
  obtain ⟨-, -, -, herr, -⟩ := h
  exact fun he => herr.mp he hp

/-- An instruction keeps the invariant when its operations do, and every fault of its operations names a cause. -/
theorem inv_of_finish {r : Res State} (h : s.Inv) (hr : r ≠ .error (.raised .none)) (hok : ∀ u, r = .ok u → u.Inv)
    (hf : finish s r = .next t) : t.Inv := by
  rcases finish_next_iff.mp hf with rfl | ⟨e, rfl, rfl⟩
  · exact hok t rfl
  · exact inv_raise (fun he => hr (he ▸ rfl)) (err_ne_none_of_inv h)

/-- The same for a command, whose body only runs where it is allowed. -/
theorem inv_of_command {allowed : Bool} {body : Res State} (h : s.Inv) (hr : body ≠ .error (.raised .none))
    (hok : ∀ u, allowed = true → body = .ok u → u.Inv) (hc : command s allowed body = .next t) : t.Inv := by
  rcases command_next_iff.mp hc with ⟨-, rfl⟩ | ⟨-, ha, hf⟩ | ⟨-, -, rfl⟩
  · exact h
  · exact inv_of_finish h hr (fun u => hok u ha) hf
  · exact inv_raise nofun (err_ne_none_of_inv h)

theorem StopsOrderly.ne_raised_none {r : Res State} (h : StopsOrderly r) : r ≠ .error (.raised .none) :=
  fun hr => h _ hr rfl

/-! ### READ_NEXT and READ_LINE -/

theorem readAllowed_iff : readAllowed s = true ↔ s.st = .active ∧ s.currentBlockIndex < s.params.blocks := by
  simp [readAllowed]

/-- The start of a block of an ACTIVE decoder meets the invariant between transactions. -/
theorem State.MidBlock.inv (h : s.MidBlock) (hi : s.i = 0) (hseq : s.seq = .command) (hst : s.st = .active)
    (herr : s.err = .none) : s.Inv :=
  ⟨hseq, h.inStream, h.canonical, iff_of_true herr (by rw [hst]; decide), fun _ => h.activeInv hi⟩

theorem inv_readNext (h : s.Inv) (hr : readNext s = .ok t) : t.Inv := by
  obtain ⟨ha, hb⟩ := readNext_ok_iff.mp hr
  obtain ⟨hst, hblk⟩ := readAllowed_iff.mp ha
  obtain ⟨hmid, hi⟩ := midBlock_of_inv h hst
  obtain ⟨hseq, -, -, herr, -⟩ := h
  obtain ⟨hst', herr', -, -, -, hi', -, -, -, -, -, -, -, hseq', -⟩ := readBlock_frame hb
  have hnone : s.err = .none := herr.mpr (by rw [hst]; decide)
  exact (midBlock_readBlock hmid hi hblk hb).inv hi' (hseq'.trans hseq) (hst'.trans hst) (herr'.trans hnone)

theorem inv_readLine (h : s.Inv) (hr : readLine s = .ok t) : t.Inv := by
  obtain ⟨u, hu, rfl⟩ := readLine_ok hr
  have hinv : u.Inv := readLineLoop_keeps (P := State.Inv) (fun _ _ => inv_readNext) _ h hu
  exact hinv

/-! ### CONSTRUCT, FINALIZE_LINE and the accessors -/

theorem freshCtx_inRange {P : Parameters} (h : legalParams P = true) : (freshCtx P).InRange P := by
  obtain ⟨hraw, -⟩ := legalParams_bounds h
  exact ⟨Nat.one_le_iff_ne_zero.mpr nofun, hraw⟩

/-- A legal CONSTRUCT leaves the start of the first block (70_reset_and_hazards.md R221). -/
theorem midBlock_constructed {P : Parameters} (hP : legalParams P = true) (hpos : s.pos ≤ s.streamLength) :
    (constructed P s).MidBlock := by
  obtain ⟨-, hreal, -⟩ := legalParams_bounds hP
  have hfresh : (constructed P s).shaped (freshLine P) := ⟨rfl, rfl⟩
  exact {
    inStream := hpos
    canonical := memoryWf_constructed P
    legal := hP
    shaped := ⟨hfresh, hfresh, hfresh, hfresh, hfresh⟩
    block := Nat.zero_le _
    count := (Nat.zero_min _).symm
    index := Nat.zero_le _
    depth := ⟨Nat.zero_le _, by change (0 : Int) ≤ P.bitdepthReal.toInt; omega⟩
    rangeA := freshCtx_inRange hP
    rangeB := freshCtx_inRange hP
    quiet := le_refl 0 }

theorem inv_execConstruct {P : Parameters} (h : s.Inv) (he : execConstruct P s = .next t) : t.Inv := by
  cases hP : legalParams P with
  | true =>
    rw [execConstruct_legal hP] at he
    cases he
    obtain ⟨hseq, hpos, -⟩ := h
    exact (midBlock_constructed hP hpos).inv rfl hseq rfl rfl
  | false =>
    rw [execConstruct_illegal hP] at he
    cases he
    exact inv_raise nofun nofun

/-- The restart of a line leaves the start of its first block (46_line_decoder.md R172). -/
theorem midBlock_finalizeLine (h : s.MidBlock) (hi : s.i = 0) (hf : finalizeLine s = .ok t) : t.MidBlock ∧ t.i = 0 := by
  have hmem := memoryWf_finalizeLine h.canonical hf
  obtain ⟨-, a, b, c, hooks, rfl, ha, hb, hc⟩ := finalizeLine_eq hf
  obtain ⟨hA, hBC, -, hBP, hCP⟩ := h.shaped
  have hfresh := freshCtx_inRange h.legal
  have hshape {old new : BlockLine} (hold : s.shaped old) (hnew : SameShape old new) : s.shaped new :=
    ⟨hnew.1.trans hold.1, hnew.2.trans hold.2⟩
  have hb' : s.shaped b := hb.elim (hshape hBC) (hshape hBP)
  have hc' : s.shaped c := hc.elim (hshape hBC) (hshape hCP)
  exact ⟨{ h with
    canonical := hmem
    shaped := ⟨hA, hBC, hshape hA ha, hb', hc'⟩
    block := Nat.zero_le _
    count := by
      change 0 = min (Config.blockSize * 0 + s.i) _
      rw [hi, Nat.mul_zero, Nat.zero_min]
    rangeA := hfresh
    rangeB := hfresh
    quiet := le_refl 0 }, hi⟩

theorem inv_finalizeLine (h : s.Inv) (ha : finalizeAllowed s = true) (hf : finalizeLine s = .ok t) : t.Inv := by
  obtain ⟨hst, -⟩ : s.st = .active ∧ lineComplete s = true := by simpa [finalizeAllowed] using ha
  obtain ⟨hmid, hi⟩ := midBlock_of_inv h hst
  obtain ⟨hseq, -, -, herr, -⟩ := h
  obtain ⟨hmid', hi'⟩ := midBlock_finalizeLine hmid hi hf
  have hnone : s.err = .none := herr.mpr (by rw [hst]; decide)
  obtain ⟨-, a, b, c, hooks, rfl, -⟩ := finalizeLine_eq hf
  exact hmid'.inv hi' hseq hst hnone

theorem inv_returnWords {b : BlockLine} (h : s.Inv) (hr : returnWords b s = .ok t) : t.Inv := by
  obtain ⟨-, rfl⟩ := returnWords_ok_iff.mp hr
  exact h

theorem finalizeLine_ne_raised (e : ErrCode) : finalizeLine s ≠ .error (.raised e) := by
  unfold finalizeLine
  split <;> exact nofun

/-! ### Every command, and every step -/

/-- Every command keeps the invariant. -/
theorem inv_exec_command {i : Instr} (h : s.Inv) (hi : commandCode i ≠ none) (he : exec i s = .next t) : t.Inv := by
  cases i with
  | construct P => exact inv_execConstruct h he
  | readNext => exact inv_of_command h (readNext_stopsOrderly s).ne_raised_none (fun _ _ => inv_readNext h) he
  | readLine => exact inv_of_command h (readLine_stopsOrderly s).ne_raised_none (fun _ _ => inv_readLine h) he
  | finalizeLine => exact inv_of_command h (finalizeLine_ne_raised _) (fun _ => inv_finalizeLine h) he
  | lineA | lineB =>
    exact inv_of_command h (returnWords_stopsOrderly s _).ne_raised_none (fun _ _ => inv_returnWords h) he
  | reserved odd =>
    have hr : StopsOrderly (.error (.raised .notImplemented) : Res State) := stopsOrderly_raised nofun
    exact inv_of_command h hr.ne_raised_none (fun _ _ hok => by cases hok) he
  | hdrL _ | hdrF _ _ | hdrK _ | hdrD _ _ | pfx0 | pfx1 | pfx2 | pfx3 | pfx4 | pfx5 | pfx6 | pfx7 | pfx8 | pfx9
  | pfx10 | pfx11 | pfx12 | vlpair _ _ _ _ | rawpair _ _ | pad => exact absurd rfl hi

/-- What stands on the command port is a command (30_encoding.md R74). -/
theorem commandCode_decodeCommand (cmd : BitVec 3) (arg : Parameters) :
    commandCode (decodeCommand cmd arg) ≠ none := by
  unfold decodeCommand
  split <;> exact nofun

/-- The next action of the host keeps the invariant (70_reset_and_hazards.md R229). -/
theorem inv_commandStep (h : s.Inv) (hs : commandStep s = .next t) : t.Inv := by
  unfold commandStep at hs
  split at hs
  · cases hs
    exact h
  · obtain ⟨hp, rfl⟩ := presentStream_next_iff.mp hs
    obtain ⟨hseq, -, hmem, herr, hact⟩ := h
    exact ⟨hseq, hp, hmem, herr, hact⟩
  · next cmd arg rest _ =>
    have hport : (s.withPort rest).Inv := h
    exact inv_exec_command hport (commandCode_decodeCommand cmd arg) hs

/-! ### The complete line -/

/-- READ_NEXT returns whether its next state has a complete line (46_line_decoder.md R169). -/
theorem readBlock_result (h : readBlock s = .ok t) : t.result = .lineComplete (lineComplete t) := by
  obtain ⟨u, v, -, -, ⟨-, rfl⟩ | ⟨-, w, -, rfl⟩⟩ := readBlock_ok_iff.mp h
  · rfl
  · rfl

/-- On a complete line of a state of the invariant every pair is counted (10_state.md R24). -/
theorem readValuesCount_of_lineComplete (h : s.Inv) (hs : s.st = .active) (hc : lineComplete s = true) :
    s.readValuesCount = s.params.valuesPerLine ∧ s.currentBlockIndex = s.params.blocks := by
  have hblk : s.currentBlockIndex = s.params.blocks := by simpa [lineComplete] using hc
  obtain ⟨hmid, hi⟩ := midBlock_of_inv h hs
  obtain ⟨-, -, hfit⟩ := legalParams_bounds hmid.legal
  refine ⟨?_, hblk⟩
  rw [hmid.count, hi, hblk, Nat.add_zero]
  exact Nat.min_eq_right hfit

end Sys2Proof.Machine
end

section
/-! SUPPORT. A step inside a transaction: what is fetched there is an element of the stream (10_state.md R14,
46_line_decoder.md R177). -/

namespace Sys2Proof.Machine

variable {s : State}

/-- What is well formed in a place of the stream is an element of the stream. -/
theorem commandCode_of_wellFormed {c : FetchCtx} {i : Instr} (hc : c ≠ .port) (h : wellFormed c i = true) :
    commandCode i = none := by
  cases i with
  | construct _ | readNext | readLine | finalizeLine | lineA | lineB | reserved _ =>
    cases c with
    | port => exact absurd rfl hc
    | header _ _ | vlpair _ _ _ | rawpair _ | pad _ | codeword => cases h
  | hdrL _ | hdrF _ _ | hdrK _ | hdrD _ _ | pfx0 | pfx1 | pfx2 | pfx3 | pfx4 | pfx5 | pfx6 | pfx7 | pfx8 | pfx9
  | pfx10 | pfx11 | pfx12 | vlpair _ _ _ _ | rawpair _ _ | pad => rfl

/-- Inside a transaction nothing is fetched from the command port. -/
theorem fetchCtx_ne_port (h : s.seq ≠ .command) : fetchCtx s ≠ .port := by
  unfold fetchCtx
  split
  · next hs => exact absurd hs h
  · exact nofun
  · split <;> exact nofun
  · exact nofun
  · exact nofun

/-- Inside a transaction a step is the element at `pos`, and then the sequencer. -/
theorem step_element {i : Instr} (h : s.seq ≠ .command)
    (hd : decode (fetchCtx s) (.bits (upcoming s)) = .ok i) : step s = afterElement (exec i s) := by
  rw [step, if_neg h, elementStep, hd]

end Sys2Proof.Machine
end

section
/-! The statements of 10_state.md, settled. -/

namespace Sys2Proof.Machine

/-- Settles O51: between transactions a step is an action of the host, and each of them keeps the invariant. -/
theorem everyStepKeepsTheInvariant : Obligations.EveryStepKeepsTheInvariant := by
  intro s t h hs
  have hcommand : step s = commandStep s := by
    obtain ⟨hseq, -⟩ := h
    exact if_pos hseq
  exact inv_commandStep h (hcommand ▸ hs)

/-- Settles O43: FINALIZE_LINE by its next state, every other instruction by `sameLine_of_exec`. -/
theorem parametersAndLineIndexHaveTheirWriters : Obligations.ParametersAndLineIndexHaveTheirWriters := by
  intro i s t h ht hc
  by_cases hf : i = .finalizeLine
  · subst hf
    obtain ⟨-, hok⟩ := ok_of_command h ht
    obtain ⟨hparams, hindex⟩ := finalizeLine_lineIndex hok
    exact ⟨hparams, fun hne => absurd rfl hne, fun _ => hindex⟩
  · obtain ⟨hparams, hline⟩ := sameLine_of_exec h ht hc hf
    exact ⟨hparams, fun _ => hline, fun hi => absurd hi hf⟩

/-- Settles O53: READ_NEXT keeps the invariant, and its result is `line_complete` of the next state. -/
theorem completeLineHasAllItsPairs : Obligations.CompleteLineHasAllItsPairs := by
  intro s t h _ he ht hres
  have hinv : t.Inv := inv_exec_command (i := .readNext) h nofun he
  obtain ⟨-, hok⟩ := ok_of_command he (by rw [ht]; decide)
  have hline := readBlock_result (readNext_ok_iff.mp hok).2
  have hc : lineComplete t = true := by
    rw [hres] at hline
    exact (Result.lineComplete.inj hline).symm
  obtain ⟨hcount, hblk⟩ := readValuesCount_of_lineComplete hinv ht hc
  have hparams := (sameLine_of_readNext hok).1
  rw [hparams] at hcount hblk
  exact ⟨hcount, hblk⟩

/-- Settles O37: FINALIZE_LINE is allowed on a complete line, and its body refuses the last line index. -/
theorem lastLineIndexRefusesFinalize : Obligations.LastLineIndexRefusesFinalize := by
  intro s hs hblk hindex
  have hallowed : finalizeAllowed s = true := by simp [finalizeAllowed, lineComplete, hs, hblk]
  have hlast : s.currentLineIndex = BitVec.allOnes 32 := BitVec.eq_of_toNat_eq hindex
  have hbody : finalizeLine s = .error (.refused .lineIndexOverflow) := if_pos hlast
  change command s (finalizeAllowed s) (finalizeLine s) = _
  rw [hallowed, command_allowed (by rw [hs]; decide), hbody, finish_refused]

/-- Settles O47: no element is refused, so the sequencer passes on what `exec` answers. -/
theorem stepRunsTheElementAtPos : Obligations.StepRunsTheElementAtPos := by
  intro s i hseq hd hw
  have helem : commandCode i = none := commandCode_of_wellFormed (fetchCtx_ne_port hseq) hw
  rw [step_element hseq hd]
  refine ⟨fun t ht => by rw [ht]; rfl, fun f hf => by rw [hf]; rfl, fun r hr => ?_⟩
  cases ho : exec i s with
  | next t => rw [ho] at hr; cases hr
  | fault f => rw [ho] at hr; cases hr
  | refused why => exact exec_element_ne_refused s helem why ho

/-- Settles O54: the ten numbers, each by the definition of its table. -/
theorem causeAndStatusHaveTheirNumbers : Obligations.CauseAndStatusHaveTheirNumbers :=
  ⟨rfl, rfl, rfl, rfl, rfl, rfl, rfl, rfl, rfl, rfl⟩

end Sys2Proof.Machine
end

section
/-! SUPPORT. The bits ahead and the cursor: what Peek reads (20_memory.md R41, R42), where AlignTo ends (R46), and what a fault
looks like from outside (60_exceptions.md R196). -/

namespace Sys2Proof.Machine

variable {s t : State}

/-- Bit `k` of a field is the `k`-th bit of the list it is read from (R41). -/
theorem testBit_valueOf (l : List Bool) (k : Nat) : (valueOf l).testBit k = l.getD k false := by
  induction l generalizing k with
  | nil => exact Nat.zero_testBit k
  | cons b l ih =>
    have hcons : valueOf (b :: l) = Nat.bit b (valueOf l) := by
      rw [valueOf, Nat.bit_val, Nat.add_comm]
    cases k with
    | zero => rw [hcons, Nat.testBit_bit_zero, List.getD_cons_zero]
    | succ k => rw [hcons, Nat.testBit_bit_succ, ih, List.getD_cons_succ]

/-- The `k`-th bit of the next `n` is the stream's bit `pos + k`, while there are so many. -/
theorem getD_take_upcoming (n k : Nat) (s : State) :
    ((upcoming s).take n).getD k false = if k < n then s.stream.getD (s.pos + k) false else false := by
  rw [upcoming, List.getD_eq_getElem?_getD, List.getElem?_take]
  split
  · rw [List.getElem?_drop, List.getD_eq_getElem?_getD]
  · rfl

/-- There is one multiple of `B` from `p` on and before `p + B` (R46). -/
theorem eq_alignUp {B p q : Nat} (hB : 0 < B) (hd : B ∣ q) (hp : p ≤ q) (hq : q < p + B) : q = alignUp B p := by
  obtain ⟨c, rfl⟩ := hd
  obtain ⟨d, hd⟩ := dvd_alignUp B p
  have h1 : p ≤ B * d := hd ▸ le_alignUp hB
  have h2 : B * d < p + B := hd ▸ alignUp_lt hB
  have hcd : c < d + 1 := Nat.lt_of_mul_lt_mul_left (a := B) (by rw [Nat.mul_succ]; omega)
  have hdc : d < c + 1 := Nat.lt_of_mul_lt_mul_left (a := B) (by rw [Nat.mul_succ]; omega)
  rw [hd, show c = d by omega]

theorem padBoundary_eq (m : I32) : padBoundary m = if m = 1 then 256 else 128 := by
  have h : m.toInt = 1 ↔ m = 1 := ⟨fun h => BitVec.eq_of_toInt_eq h, fun h => h ▸ rfl⟩
  simp only [padBoundary, h]

theorem alignTo_error {B : Nat} (h : alignUp B s.pos > s.streamLength) :
    alignTo B s = .error (.raised .unexpectedEndOfStream) := if_pos h

theorem exec_pad (s : State) : exec .pad s = finish s (pad s) := rfl

/-- An operation that raises `e` takes the fault `e`. -/
theorem takesFault_finish (s : State) (e : ErrCode) : takesFault (finish s (.error (.raised e))) s e :=
  ⟨raise e s, rfl, raise_st e, raise_err e, raise_result e, raise_seq e, raise_stream e, raise_pos_le e, raise_port e,
    raise_hookState e⟩

end Sys2Proof.Machine
end

section
/-! SUPPORT. What an instruction leaves of the host's side: the stream, the pending actions, and a cursor that only moves
forward (20_memory.md R40, R47, 46_line_decoder.md R177). -/

namespace Sys2Proof.Machine

variable {s t : State}

/-- `t` has the stream and the pending actions of `s`, and reads on from its `pos`. -/
structure ReadsOn (s t : State) : Prop where
  stream : t.stream = s.stream
  port : t.port = s.port
  forward : s.pos ≤ t.pos

theorem ReadsOn.refl (s : State) : ReadsOn s s := ⟨rfl, rfl, le_refl _⟩

theorem ReadsOn.trans {u : State} (h : ReadsOn s u) (h' : ReadsOn u t) : ReadsOn s t :=
  ⟨h'.stream.trans h.stream, h'.port.trans h.port, h.forward.trans h'.forward⟩

theorem readsOn_afterHeader (n d : Nat) (m : Bool) (a bc : BlockLine) (s : State) :
    ReadsOn s (afterHeader n d m a bc s) := ⟨rfl, rfl, Nat.le_add_right _ _⟩

theorem readsOn_afterPair (n : Nat) (ca cb : Ctx) (q : Bool) (a bc : BlockLine) (s : State) :
    ReadsOn s (afterPair n ca cb q a bc s) := ⟨rfl, rfl, Nat.le_add_right _ _⟩

/-- A field of `n` bits and the new depth stand before the tail of a header. -/
theorem readsOn_of_headerTail {n d : Nat} {m : Bool} (h : headerTail m ((s.atPos (s.pos + n)).withDiff d) = .ok t) :
    ReadsOn s t := by
  obtain ⟨a, bc, rfl, -⟩ := headerTail_eq h
  exact ⟨rfl, rfl, (Nat.le_add_right s.pos n).trans (Nat.le_add_right _ 1)⟩

theorem readsOn_of_hdrL {m : Bool} (h : hdrL m s = .ok t) : ReadsOn s t := readsOn_of_headerTail (n := 0) h

theorem readsOn_of_hdrF {d : BitVec 4} {m : Bool} (h : hdrF d m s = .ok t) : ReadsOn s t := by
  obtain ⟨-, -, htail⟩ := hdrF_ok_iff.mp h
  exact readsOn_of_headerTail htail

theorem readsOn_of_hdrK {m : Bool} (h : hdrK m s = .ok t) : ReadsOn s t := by
  obtain ⟨-, htail⟩ := hdrK_ok_iff.mp h
  exact readsOn_of_headerTail (d := s.bitdepthDiff) htail

theorem readsOn_of_hdrD {code : BitVec 2} {m : Bool} (h : hdrD code m s = .ok t) : ReadsOn s t := by
  obtain ⟨-, -, htail⟩ := hdrD_ok_iff.mp h
  exact readsOn_of_headerTail htail

theorem readsOn_of_vlpair {ca cb : Cls} {lsa lsb : Nat} (h : vlpair ca lsa cb lsb s = .ok t) : ReadsOn s t := by
  obtain ⟨va, vb, q, pa, pb, a, bc, rfl, -⟩ := vlpair_eq h
  exact readsOn_afterPair _ _ _ _ _ _ s

theorem readsOn_of_rawpair {v1 v2 : Nat} (h : rawpair v1 v2 s = .ok t) : ReadsOn s t := by
  obtain ⟨va, vb, q, a, bc, rfl, -⟩ := rawpair_eq h
  exact readsOn_afterPair _ _ _ _ _ _ s

theorem readsOn_of_pad (h : pad s = .ok t) : ReadsOn s t := by
  obtain ⟨-, rfl⟩ := alignTo_ok_iff.mp h
  exact ⟨rfl, rfl, le_alignUp (padBoundary_pos _)⟩

theorem readsOn_of_blockBody {n : Nat} (h : blockBody n s = .ok t) : ReadsOn s t := by
  refine blockBody_keeps (P := ReadsOn s) (fun u v hu _ hv => hu.trans ?_) n (.refl s) h
  obtain ⟨k, ca, cb, q, pa, pb, a, bc, rfl, -⟩ := nextPair_eq hv
  exact { readsOn_afterPair k ca cb q a bc u with }

theorem readsOn_of_readNext (h : readNext s = .ok t) : ReadsOn s t := by
  obtain ⟨u, v, hu, hv, ht⟩ := readBlock_ok_iff.mp (readNext_ok_iff.mp h).2
  have hheader : ReadsOn s (enterBlock u) := by
    obtain ⟨n, d, m, a, bc, rfl, -⟩ := readHeader_eq hu
    exact { readsOn_afterHeader n d m a bc s with }
  have hblock : ReadsOn s (leaveBlock v) := { hheader.trans (readsOn_of_blockBody hv) with }
  rcases ht with ⟨-, rfl⟩ | ⟨-, w, hw, rfl⟩
  · exact { hblock with }
  · exact { hblock.trans (readsOn_of_pad hw) with }

theorem readsOn_of_readLine (h : readLine s = .ok t) : ReadsOn s t := by
  obtain ⟨u, hu, rfl⟩ := readLine_ok h
  have hsu : ReadsOn s u :=
    readLineLoop_keeps (P := ReadsOn s) (fun _ _ hs hn => hs.trans (readsOn_of_readNext hn)) _ (.refl s) hu
  exact { hsu with }

theorem readsOn_of_finalizeLine (h : finalizeLine s = .ok t) : ReadsOn s t := by
  obtain ⟨-, a, b, c, hooks, rfl, -⟩ := finalizeLine_eq h
  exact ⟨rfl, rfl, le_refl _⟩

theorem readsOn_of_returnWords {b : BlockLine} (h : returnWords b s = .ok t) : ReadsOn s t := by
  obtain ⟨-, rfl⟩ := returnWords_ok_iff.mp h
  exact ⟨rfl, rfl, le_refl _⟩

theorem readsOn_of_construct {P : Parameters} (h : construct P s = .ok t) : ReadsOn s t := by
  unfold construct at h
  split at h
  · cases h
    exact ⟨rfl, rfl, le_refl _⟩
  · cases h

/-! ### Every outcome -/

/-- `ReadsOn`, but for the cursor of a POISONED state, which fault entry leaves unspecified (60_exceptions.md R196). -/
def KeepsInput (s t : State) : Prop := t.stream = s.stream ∧ t.port = s.port ∧ (t.st ≠ .poisoned → s.pos ≤ t.pos)

theorem ReadsOn.keepsInput (h : ReadsOn s t) : KeepsInput s t := ⟨h.stream, h.port, fun _ => h.forward⟩

theorem keepsInput_raise (e : ErrCode) (s : State) : KeepsInput s (raise e s) :=
  ⟨raise_stream e, raise_port e, fun h => absurd (raise_st e) h⟩

theorem keepsInput_of_finish {r : Res State} (hok : ∀ u, r = .ok u → ReadsOn s u) (h : finish s r = .next t) :
    KeepsInput s t := by
  rcases finish_next_iff.mp h with rfl | ⟨e, -, rfl⟩
  · exact (hok t rfl).keepsInput
  · exact keepsInput_raise e s

theorem keepsInput_of_command {allowed : Bool} {body : Res State} (hok : ∀ u, body = .ok u → ReadsOn s u)
    (h : command s allowed body = .next t) : KeepsInput s t := by
  rcases command_next_iff.mp h with ⟨-, rfl⟩ | ⟨-, -, hf⟩ | ⟨-, -, rfl⟩
  · exact ⟨rfl, rfl, fun _ => le_refl _⟩
  · exact keepsInput_of_finish hok hf
  · exact keepsInput_raise _ s

/-- No instruction writes the stream or the pending actions, and without a fault none moves the cursor back. -/
theorem keepsInput_of_exec {i : Instr} (h : exec i s = .next t) : KeepsInput s t := by
  cases i with
  | hdrL m => exact keepsInput_of_finish (fun _ => readsOn_of_hdrL) h
  | hdrF d m => exact keepsInput_of_finish (fun _ => readsOn_of_hdrF) h
  | hdrK m => exact keepsInput_of_finish (fun _ => readsOn_of_hdrK) h
  | hdrD code m => exact keepsInput_of_finish (fun _ => readsOn_of_hdrD) h
  | pfx0 | pfx1 | pfx2 | pfx3 | pfx4 | pfx5 | pfx6 | pfx7 | pfx8 | pfx9 | pfx10 | pfx11 | pfx12 =>
    cases h
    exact ⟨rfl, rfl, fun _ => le_refl _⟩
  | vlpair ca lsa cb lsb => exact keepsInput_of_finish (fun _ => readsOn_of_vlpair) h
  | rawpair v1 v2 => exact keepsInput_of_finish (fun _ => readsOn_of_rawpair) h
  | pad => exact keepsInput_of_finish (fun _ => readsOn_of_pad) h
  | construct P =>
    have hnew : KeepsInput (newInstance s) t :=
      keepsInput_of_finish (fun _ hu => { readsOn_of_construct hu with }) h
    exact hnew
  | readNext => exact keepsInput_of_command (fun _ => readsOn_of_readNext) h
  | readLine => exact keepsInput_of_command (fun _ => readsOn_of_readLine) h
  | finalizeLine => exact keepsInput_of_command (fun _ => readsOn_of_finalizeLine) h
  | lineA | lineB => exact keepsInput_of_command (fun _ => readsOn_of_returnWords) h
  | reserved odd => exact keepsInput_of_command (fun _ hu => by cases hu) h

end Sys2Proof.Machine
end

section
/-! SUPPORT. Where no operation meets a fault of the model: with every buffer of the shape the Parameters fix, each load and
store stands at a position its buffer has (20_memory.md R50, 70_reset_and_hazards.md R223). -/

namespace Sys2Proof.Machine

/-- The operation does not stop with a fault of the model. -/
def Faultless {α : Type} (r : Res α) : Prop := ∀ f, r ≠ .error (.fault f)

section Combinators

variable {α β : Type} {x y : Res α}

theorem faultless_ok (a : α) : Faultless (.ok a : Res α) := nofun

theorem faultless_raised (e : ErrCode) : Faultless (.error (.raised e) : Res α) := nofun

theorem faultless_refused (why : Refusal) : Faultless (.error (.refused why) : Res α) := nofun

/-- What follows need only be faultless after the answers the first operation can give. -/
theorem Faultless.bind {f : α → Res β} (hx : Faultless x) (hf : ∀ a, x = .ok a → Faultless (f a)) :
    Faultless (x >>= f) := by
  cases x with
  | ok a => exact hf a rfl
  | error e => exact fun q hq => hx q (by rw [error_bind] at hq; cases hq; rfl)

theorem Faultless.ite {c : Prop} [Decidable c] (hx : c → Faultless x) (hy : ¬ c → Faultless y) :
    Faultless (if c then x else y) := by
  split
  · next h => exact hx h
  · next h => exact hy h

end Combinators

variable {s t : State}

/-! ### The BitSource port and the buffers -/

theorem consume_faultless (n : Nat) (s : State) : Faultless (consume n s) :=
  .ite (fun _ => faultless_raised _) (fun _ => faultless_ok _)

theorem consumeWindow_faultless (n : Nat) (s : State) : Faultless (consumeWindow n s) :=
  .ite (fun _ => faultless_raised _) (fun _ => consume_faultless n s)

theorem pad_faultless (s : State) : Faultless (pad s) :=
  .ite (fun _ => faultless_raised _) (fun _ => faultless_ok _)

theorem checkRange_faultless (diff : Int) (s : State) : Faultless (checkRange diff s) :=
  .ite (fun _ => faultless_raised _) (fun _ => faultless_ok _)

theorem memRead_faultless {b : BlockLine} {blk i : Nat} (hb : blk < b.blocks) (hi : i < Config.blockSize) :
    Faultless (memRead b blk i) := by
  rw [memRead_ok hb hi]
  exact faultless_ok _

theorem memWrite_faultless {b : BlockLine} {blk i : Nat} (v : Sample) (hb : blk < b.blocks)
    (hi : i < Config.blockSize) : Faultless (memWrite b blk i v) := by
  rw [memWrite_ok v hb hi]
  exact faultless_ok _

theorem hdrWrite_faultless {b : BlockLine} {blk : Nat} (v : HdrVal) (hb : blk < b.blocks) :
    Faultless (hdrWrite b blk v) := by
  rw [hdrWrite_ok v hb]
  exact faultless_ok _

theorem snapshot_faultless {b : BlockLine} {n : Nat} (h : n ≤ b.size) : Faultless (snapshot b n) := by
  rw [snapshot_ok_iff.mpr ⟨h, rfl⟩]
  exact faultless_ok _

/-! ### Headers and pairs -/

/-- The current block is one of the line's, in buffers of the shape the Parameters fix. -/
def State.BlockInLine (s : State) : Prop := s.LinesShaped ∧ s.currentBlockIndex < s.params.blocks

theorem State.shaped.hasBlock {b : BlockLine} (h : s.shaped b) (hb : s.currentBlockIndex < s.params.blocks) :
    s.currentBlockIndex < b.blocks := h.1.symm ▸ hb

theorem headerTail_faultless (h : s.BlockInLine) (m : Bool) : Faultless (headerTail m s) := by
  obtain ⟨⟨hA, hBC, -⟩, hb⟩ := h
  refine (consume_faultless 1 s).bind fun u hu => ?_
  obtain ⟨-, rfl⟩ := consume_ok_iff.mp hu
  exact (hdrWrite_faultless _ (hA.hasBlock hb)).bind fun _ _ =>
    (hdrWrite_faultless _ (hBC.hasBlock hb)).bind fun _ _ => faultless_ok _

/-! The depth, the mode, the contexts, the noise count and `pos` are no part of the place: what writes only them keeps it. -/

theorem blockInLine_of_consume {n : Nat} (h : s.BlockInLine) (hc : consume n s = .ok t) : t.BlockInLine := by
  obtain ⟨-, rfl⟩ := consume_ok_iff.mp hc
  exact h

theorem blockInLine_of_checkRange {diff : Int} (h : s.BlockInLine) (hc : checkRange diff s = .ok t) :
    t.BlockInLine := by
  obtain ⟨-, rfl⟩ := checkRange_ok_iff.mp hc
  exact h

theorem hdrL_faultless (h : s.BlockInLine) (m : Bool) : Faultless (hdrL m s) :=
  headerTail_faultless (s := s.withDiff 0) h m

theorem hdrF_faultless (h : s.BlockInLine) (d : BitVec 4) (m : Bool) : Faultless (hdrF d m s) :=
  (consume_faultless 4 s).bind fun u hu => (checkRange_faultless _ u).bind fun _ hw =>
    headerTail_faultless (blockInLine_of_checkRange (blockInLine_of_consume h hu) hw) m

theorem hdrK_faultless (h : s.BlockInLine) (m : Bool) : Faultless (hdrK m s) :=
  (consume_faultless 1 s).bind fun _ hu => headerTail_faultless (blockInLine_of_consume h hu) m

theorem hdrD_faultless (h : s.BlockInLine) (code : BitVec 2) (m : Bool) : Faultless (hdrD code m s) :=
  (consume_faultless 1 s).bind fun u hu => (consume_faultless 2 u).bind fun v hv =>
    (checkRange_faultless _ v).bind fun _ hw => headerTail_faultless
      (blockInLine_of_checkRange (blockInLine_of_consume (blockInLine_of_consume h hu) hv) hw) m

theorem readHeader_faultless (h : s.BlockInLine) : Faultless (readHeader s) := by
  unfold readHeader
  split
  · exact hdrL_faultless h _
  · exact hdrF_faultless h _ _
  · exact hdrK_faultless h _
  · exact hdrD_faultless h _ _

/-- The position of the pair is one of the current block's, and that block is one of the line's. -/
def State.PairInLine (s : State) : Prop := s.BlockInLine ∧ s.i < Config.blockSize

theorem pairInLine_of_consume {n : Nat} (h : s.PairInLine) (hc : consume n s = .ok t) : t.PairInLine := by
  obtain ⟨-, rfl⟩ := consume_ok_iff.mp hc
  exact h

theorem pairInLine_of_consumeWindow {n : Nat} (h : s.PairInLine) (hc : consumeWindow n s = .ok t) : t.PairInLine := by
  obtain ⟨-, -, rfl⟩ := consumeWindow_ok_iff.mp hc
  exact h

theorem pairInLine_of_loadOld (h : s.PairInLine) (hl : loadOld s = .ok t) : t.PairInLine := by
  obtain ⟨va, vb, rfl⟩ := loadOld_ok hl
  exact h

theorem pairInLine_shiftBoth_noiseTick (h : s.PairInLine) : (shiftBoth (noiseTick s)).PairInLine := by
  rw [noiseTick_eq]
  exact h

theorem shaped_prevB (h : s.LinesShaped) : s.shaped (prevB s) := by
  obtain ⟨-, -, -, hBP, hCP⟩ := h
  unfold prevB
  split
  · exact hBP
  · exact hCP

theorem loadOld_faultless (h : s.PairInLine) : Faultless (loadOld s) := by
  obtain ⟨⟨hshaped, hb⟩, hi⟩ := h
  have hprevB := shaped_prevB hshaped
  obtain ⟨-, -, hAP, -⟩ := hshaped
  exact .ite (fun _ => (memRead_faultless (hAP.hasBlock hb) hi).bind fun _ _ =>
    (memRead_faultless (hprevB.hasBlock hb) hi).bind fun _ _ => faultless_ok _) (fun _ => faultless_ok _)

theorem storePair_faultless (h : s.PairInLine) (pa pb : Sample) : Faultless (storePair pa pb s) := by
  obtain ⟨⟨⟨hA, hBC, -⟩, hb⟩, hi⟩ := h
  exact (memWrite_faultless pa (hA.hasBlock hb) hi).bind fun _ _ =>
    (memWrite_faultless pb (hBC.hasBlock hb) hi).bind fun _ _ => faultless_ok _

theorem vlpair_faultless (h : s.PairInLine) (ca : Cls) (lsa : Nat) (cb : Cls) (lsb : Nat) :
    Faultless (vlpair ca lsa cb lsb s) := by
  refine (loadOld_faultless h).bind fun u hu => (consumeWindow_faultless _ u).bind fun w hw => ?_
  have hplace : w.PairInLine := pairInLine_of_consumeWindow (pairInLine_of_loadOld h hu) hw
  have hsamples : (vlSamples ca lsa cb lsb w).PairInLine := hplace
  exact storePair_faultless (pairInLine_shiftBoth_noiseTick hsamples) _ _

theorem rawpair_faultless (h : s.PairInLine) (v1 v2 : Nat) : Faultless (rawpair v1 v2 s) := by
  refine (loadOld_faultless h).bind fun u hu => (consume_faultless _ u).bind fun v hv =>
    (consume_faultless _ v).bind fun w hw => ?_
  have hplace : w.PairInLine := pairInLine_of_consume (pairInLine_of_consume (pairInLine_of_loadOld h hu) hv) hw
  have hsamples (ca cb : Ctx) : (w.withCtx ca cb).PairInLine := hplace
  exact (storePair_faultless (pairInLine_shiftBoth_noiseTick (hsamples _ _)) _ _).bind fun _ _ => faultless_ok _

theorem nextPair_faultless (h : s.PairInLine) : Faultless (nextPair s) :=
  .ite (fun _ => rawpair_faultless h _ _) (fun _ => vlpair_faultless h _ _ _ _)

/-! ### Blocks and lines -/

theorem State.MidBlock.blockInLine (h : s.MidBlock) (hb : s.currentBlockIndex < s.params.blocks) : s.BlockInLine :=
  ⟨h.shaped, hb⟩

/-- The invariant inside a block carries the rounds of the block body from one pair to the next. -/
theorem blockBody_faultless {n : Nat} (h : s.MidBlock) (hb : s.currentBlockIndex < s.params.blocks) :
    Faultless (blockBody n s) := by
  induction n generalizing s with
  | zero => exact faultless_ok s
  | succ n ih =>
    refine .ite (fun hm => ?_) (fun _ => faultless_ok s)
    obtain ⟨hi, -⟩ : s.i < Config.blockSize ∧ s.readValuesCount < s.params.valuesPerLine := by
      simpa [morePairs] using hm
    refine (nextPair_faultless ⟨h.blockInLine hb, hi⟩).bind fun u hu => ih (midBlock_nextPair h hm hu) ?_
    obtain ⟨k, ca, cb, q, pa, pb, a, bc, rfl, -⟩ := nextPair_eq hu
    exact hb

theorem padLine_faultless (s : State) : Faultless (padLine s) :=
  .ite (fun _ => pad_faultless s) (fun _ => faultless_ok s)

theorem readBlock_faultless (h : s.MidBlock) (hi : s.i = 0) (hb : s.currentBlockIndex < s.params.blocks) :
    Faultless (readBlock s) := by
  refine (readHeader_faultless (h.blockInLine hb)).bind fun u hu => ?_
  obtain ⟨hmid, hiu⟩ := midBlock_readHeader h hu
  have hblk : u.currentBlockIndex < u.params.blocks := by
    obtain ⟨n, d, m, a, bc, rfl, -⟩ := readHeader_eq hu
    exact hb
  exact (blockBody_faultless (midBlock_enterBlock hmid (hiu.trans hi)) hblk).bind fun _ _ =>
    (padLine_faultless _).bind fun _ _ => faultless_ok _

theorem readNext_faultless (h : s.Inv) : Faultless (readNext s) := by
  refine .ite (fun ha => ?_) (fun _ => faultless_raised _)
  obtain ⟨hst, hb⟩ := readAllowed_iff.mp ha
  obtain ⟨hmid, hi⟩ := midBlock_of_inv h hst
  exact readBlock_faultless hmid hi hb

theorem readLineLoop_faultless {n : Nat} (h : s.Inv) : Faultless (readLineLoop n s) := by
  induction n generalizing s with
  | zero => exact readNext_faultless h
  | succ n ih =>
    exact (readNext_faultless h).bind fun u hu => .ite (fun _ => faultless_ok u) (fun _ => ih (inv_readNext h hu))

theorem readLine_faultless (h : s.Inv) : Faultless (readLine s) :=
  (readLineLoop_faultless h).bind fun _ _ => faultless_ok _

/-! ### The other commands -/

theorem construct_faultless (P : Parameters) (s : State) : Faultless (construct P s) :=
  .ite (fun _ => faultless_ok _) (fun _ => faultless_raised _)

theorem finalizeLine_faultless (s : State) : Faultless (finalizeLine s) :=
  .ite (fun _ => faultless_refused _) (fun _ => faultless_ok _)

/-- A buffer of the line's shape has all the samples an accessor returns (46_line_decoder.md R174, R175). -/
theorem returnWords_faultless {b : BlockLine} (hP : legalParams s.params = true) (hb : s.shaped b) :
    Faultless (returnWords b s) := by
  obtain ⟨-, -, hfit⟩ := legalParams_bounds hP
  have hsize : s.params.valuesPerLine ≤ b.size := by
    rw [BlockLine.size, hb.1, Nat.mul_comm]
    exact hfit
  exact (snapshot_faultless hsize).bind fun _ _ => faultless_ok _

/-! ### From operations to a step -/

theorem finish_ne_fault {r : Res State} (h : Faultless r) (f : Fault) : finish s r ≠ .fault f := by
  intro hr
  cases r with
  | ok t => cases hr
  | error e =>
    cases e with
    | raised e => cases hr
    | fault g => exact h g rfl
    | refused why => cases hr

/-- A command answers its refusal in POISONED or InvalidState, or does what its body does. -/
theorem command_cases (s : State) (allowed : Bool) (body : Res State) :
    (∃ t, command s allowed body = .next t) ∨
      (s.st ≠ .poisoned ∧ allowed = true ∧ command s allowed body = finish s body) := by
  by_cases hs : s.st = .poisoned
  · exact .inl ⟨_, command_poisoned hs⟩
  · cases allowed with
    | false => exact .inl ⟨_, command_disallowed hs⟩
    | true => exact .inr ⟨hs, rfl, command_allowed hs⟩

theorem command_ne_fault {allowed : Bool} {body : Res State} (h : allowed = true → Faultless body) (f : Fault) :
    command s allowed body ≠ .fault f := by
  rcases command_cases s allowed body with ⟨t, ht⟩ | ⟨-, ha, hc⟩
  · rw [ht]
    exact nofun
  · rw [hc]
    exact finish_ne_fault (h ha) f

theorem command_ne_refused {allowed : Bool} {body : Res State} (h : StopsOrderly body) (why : Refusal) :
    command s allowed body ≠ .refused why := by
  rcases command_cases s allowed body with ⟨t, ht⟩ | ⟨-, -, hc⟩
  · rw [ht]
    exact nofun
  · rw [hc]
    exact finish_ne_refused s h why

/-- LINE_A and LINE_B are allowed in ACTIVE only, where the buffers have their shape. -/
theorem lines_faultless (h : s.Inv) (ha : (s.st == .active) = true) :
    Faultless (returnWords s.lineA s) ∧ Faultless (returnWords s.lineBC s) := by
  obtain ⟨hmid, -⟩ := midBlock_of_inv h (beq_iff_eq.mp ha)
  obtain ⟨hA, hBC, -⟩ := hmid.shaped
  exact ⟨returnWords_faultless hmid.legal hA, returnWords_faultless hmid.legal hBC⟩

/-- From the invariant no command ends in a fault of the model. -/
theorem exec_command_ne_fault {i : Instr} (h : s.Inv) (hi : commandCode i ≠ none) (f : Fault) : exec i s ≠ .fault f := by
  cases i with
  | construct P => exact finish_ne_fault (construct_faultless P s) f
  | readNext => exact command_ne_fault (fun _ => readNext_faultless h) f
  | readLine => exact command_ne_fault (fun _ => readLine_faultless h) f
  | finalizeLine => exact command_ne_fault (fun _ => finalizeLine_faultless s) f
  | lineA => exact command_ne_fault (fun ha => (lines_faultless h ha).1) f
  | lineB => exact command_ne_fault (fun ha => (lines_faultless h ha).2) f
  | reserved odd => exact command_ne_fault (fun _ => faultless_raised _) f
  | hdrL _ | hdrF _ _ | hdrK _ | hdrD _ _ | pfx0 | pfx1 | pfx2 | pfx3 | pfx4 | pfx5 | pfx6 | pfx7 | pfx8 | pfx9
  | pfx10 | pfx11 | pfx12 | vlpair _ _ _ _ | rawpair _ _ | pad => exact absurd rfl hi

theorem construct_stopsOrderly (P : Parameters) (s : State) : StopsOrderly (construct P s) :=
  .ite (stopsOrderly_ok _) (stopsOrderly_raised nofun)

/-- FINALIZE_LINE has one refusal (10_state.md R18). -/
theorem execFinalizeLine_refused {why : Refusal} (h : execFinalizeLine s = .refused why) : why = .lineIndexOverflow := by
  rcases command_cases s (finalizeAllowed s) (finalizeLine s) with ⟨t, ht⟩ | ⟨-, -, hc⟩
  · cases ht.symm.trans h
  · replace h := hc.symm.trans h
    unfold finalizeLine at h
    split at h
    · cases h
      rfl
    · cases h

/-- The one refusal of a command is that of the last line index. -/
theorem exec_command_refused {i : Instr} {why : Refusal} (hi : commandCode i ≠ none) (h : exec i s = .refused why) :
    why = .lineIndexOverflow := by
  cases i with
  | construct P => exact absurd h (finish_ne_refused _ (construct_stopsOrderly P s) why)
  | readNext => exact absurd h (command_ne_refused (readNext_stopsOrderly s) why)
  | readLine => exact absurd h (command_ne_refused (readLine_stopsOrderly s) why)
  | finalizeLine => exact execFinalizeLine_refused h
  | lineA | lineB => exact absurd h (command_ne_refused (returnWords_stopsOrderly s _) why)
  | reserved odd =>
    have hr : StopsOrderly (.error (.raised .notImplemented) : Res State) := stopsOrderly_raised nofun
    exact absurd h (command_ne_refused hr why)
  | hdrL _ | hdrF _ _ | hdrK _ | hdrD _ _ | pfx0 | pfx1 | pfx2 | pfx3 | pfx4 | pfx5 | pfx6 | pfx7 | pfx8 | pfx9
  | pfx10 | pfx11 | pfx12 | vlpair _ _ _ _ | rawpair _ _ | pad => exact absurd rfl hi

theorem presentStream_ne_fault (bits : List Bool) (p : Nat) (s : State) (f : Fault) :
    presentStream bits p s ≠ .fault f := by
  unfold presentStream
  split <;> exact nofun

theorem presentStream_refused {bits : List Bool} {p : Nat} {why : Refusal} (h : presentStream bits p s = .refused why) :
    why = .streamPositionBeyondEnd := by
  unfold presentStream at h
  split at h
  · cases h
  · cases h
    rfl

/-- No action of the host ends in a fault of the model. -/
theorem commandStep_ne_fault (h : s.Inv) (f : Fault) : commandStep s ≠ .fault f := by
  unfold commandStep
  split
  · exact nofun
  · exact presentStream_ne_fault _ _ _ f
  · next cmd arg rest _ =>
    have hport : (s.withPort rest).Inv := h
    exact exec_command_ne_fault hport (commandCode_decodeCommand cmd arg) f

/-- The two refusals of the host's actions. -/
theorem commandStep_refused {why : Refusal} (h : commandStep s = .refused why) :
    why = .lineIndexOverflow ∨ why = .streamPositionBeyondEnd := by
  unfold commandStep at h
  split at h
  · cases h
  · exact .inr (presentStream_refused h)
  · next cmd arg _ _ => exact .inl (exec_command_refused (commandCode_decodeCommand cmd arg) h)

/-- Between transactions a step is the host's next action. -/
theorem step_command (h : s.seq = .command) : step s = commandStep s := if_pos h

end Sys2Proof.Machine
end

section
/-! The statements of 20_memory.md, settled. -/

namespace Sys2Proof.Machine

/-- Settles O52: between transactions a step is an action of the host, and by the invariant every load and store of a command
stands at a position its buffer has. -/
theorem noStepFaultsBetweenTransactions : Obligations.NoStepFaultsBetweenTransactions := by
  intro s h
  have hcommand : step s = commandStep s := by
    obtain ⟨hseq, -⟩ := h
    exact step_command hseq
  rw [hcommand]
  exact ⟨commandStep_ne_fault h, fun _ => commandStep_refused⟩

/-- Settles O6: Peek is the value of the bits ahead, and beyond `L` the stream has none. -/
theorem peekReadsTheStreamZeroFilled : Obligations.PeekReadsTheStreamZeroFilled := by
  intro n k s
  rw [peek, testBit_valueOf, getD_take_upcoming]
  by_cases hL : s.pos + k < s.stream.length
  · simp only [hL, and_true]
  · simp only [hL, and_false, List.getD_eq_default _ _ (Nat.not_lt.mp hL), ite_self]

/-- Settles O7: the laws of a sample store, at the key of the position. -/
theorem storedSampleIsReadBack : Obligations.StoredSampleIsReadBack := by
  intro b blk i v hw hb hi
  have hstore := memWrite_ok v hb hi
  obtain ⟨hblocks, hfill, hheaders⟩ := memWrite_shape hstore
  have hread := memWrite_sampleAt hw hstore
  refine ⟨_, hstore, memWrite_wf hw hstore, ?_, hblocks, hfill, hheaders, hread⟩
  rw [memRead_ok (hblocks ▸ hb) hi, hread, if_pos rfl]

/-- Settles O8: the laws of a header store. -/
theorem storedHeaderEntryIsReadBack : Obligations.StoredHeaderEntryIsReadBack := by
  intro b blk v hw hb
  have hstore := hdrWrite_ok v hb
  obtain ⟨hblocks, hfill, hsamples⟩ := hdrWrite_shape hstore
  exact ⟨_, hstore, hdrWrite_wf hw hstore, hblocks, hfill, hsamples, hdrWrite_headerAt hw hstore⟩

/-- Settles O29: `p` is where AlignTo ends, and AlignTo answers when that is not past the end. -/
theorem padMovesToTheNextBoundary : Obligations.PadMovesToTheNextBoundary := by
  intro s B p hB hd hp hlt
  rw [← padBoundary_eq] at hB
  subst hB
  obtain rfl := eq_alignUp (padBoundary_pos _) hd hp hlt
  rw [exec_pad]
  constructor
  · intro hl
    have hok : pad s = .ok (s.atPos _) := alignTo_ok_iff.mpr ⟨hl, rfl⟩
    exact congrArg (finish s) hok
  · intro hl
    have hraised : pad s = .error _ := alignTo_error hl
    rw [hraised]
    exact takesFault_finish s _

/-- Settles O44: every operation reads on from `pos`, and fault entry touches neither the stream nor the port. -/
theorem noInstructionWritesTheStream : Obligations.NoInstructionWritesTheStream :=
  fun _ _ _ => keepsInput_of_exec

/-- Settles O5: the two branches of Consume. -/
theorem consumeFaultsOrMovesPos : Obligations.ConsumeFaultsOrMovesPos :=
  fun _ _ => ⟨consume_error, consume_ok⟩

/-- Settles O49: the step takes the action from the port and presents the stream, or refuses the position. -/
theorem hostPresentsAStreamBetweenTransactions : Obligations.HostPresentsAStreamBetweenTransactions := by
  intro s bits p rest hseq hport
  have hstep : step s = presentStream bits p (s.withPort rest) := by
    rw [step_command hseq, commandStep, hport]
  rw [hstep]
  exact ⟨fun hp => presentStream_next_iff.mpr ⟨hp, rfl⟩, fun hp => if_neg (Nat.not_le.mpr hp)⟩

end Sys2Proof.Machine
end

section
/-! SUPPORT. Reading a list of bits from its low end (20_memory.md R41, 30_encoding.md R61): what stands in front is read off, and
what follows stays. -/

namespace Sys2Proof

theorem valueOf_cons_mod_two (b : Bool) (l : List Bool) : valueOf (b :: l) % 2 = b.toNat := by
  cases b <;> simp [valueOf]

theorem valueOf_cons_div_two (b : Bool) (l : List Bool) : valueOf (b :: l) / 2 = valueOf l := by
  rw [valueOf]
  have := b.toNat_lt
  omega

/-- Bits that have been read are shifted out. -/
theorem valueOf_append_shiftRight (l rest : List Bool) : valueOf (l ++ rest) >>> l.length = valueOf rest := by
  induction l with
  | nil => rfl
  | cons b l ih => rw [List.length_cons, Nat.shiftRight_succ_inside, List.cons_append, valueOf_cons_div_two, ih]

@[simp] theorem length_bitsOf (n v : Nat) : (bitsOf n v).length = n := by
  induction n generalizing v with
  | zero => rfl
  | succ n ih => rw [bitsOf, List.length_cons, ih]

/-- A field of `n` bits in front is read back (R69). -/
theorem lowBits_valueOf_bitsOf (n v : Nat) (rest : List Bool) :
    lowBits (valueOf (bitsOf n v ++ rest)) n = lowBits v n := by
  induction n generalizing v with
  | zero => simp only [lowBits, pow_zero, Nat.mod_one]
  | succ n ih =>
    have hbit : (v % 2 == 1).toNat = v % 2 := by
      rcases Nat.mod_two_eq_zero_or_one v with h | h <;> rw [h] <;> rfl
    unfold lowBits at ih ⊢
    rw [pow_succ', Nat.mod_mul, Nat.mod_mul, bitsOf, List.cons_append, valueOf_cons_mod_two, valueOf_cons_div_two, ih,
      hbit]

theorem lowBits_lt (W n : Nat) : lowBits W n < 2 ^ n := Nat.mod_lt _ (Nat.two_pow_pos n)

/-- What fits its field is not cut. -/
theorem lowBits_of_lt {v n : Nat} (h : v < 2 ^ n) : lowBits v n = v := Nat.mod_eq_of_lt h

theorem ofNat_valueOf_bitsOf {n : Nat} (d : BitVec n) (rest : List Bool) :
    BitVec.ofNat n (valueOf (bitsOf n d.toNat ++ rest)) = d := by
  apply BitVec.eq_of_toNat_eq
  rw [BitVec.toNat_ofNat]
  exact (lowBits_valueOf_bitsOf n d.toNat rest).trans (lowBits_of_lt d.isLt)

/-- A field of `n` bits in front is shifted out. -/
theorem valueOf_bitsOf_shiftRight (n v : Nat) (rest : List Bool) :
    valueOf (bitsOf n v ++ rest) >>> n = valueOf rest := by
  have h := valueOf_append_shiftRight (bitsOf n v) rest
  rwa [length_bitsOf] at h

end Sys2Proof
end

section
/-! SUPPORT. The codewords (40_prefix_code.md R80, 30_encoding.md R68): the decoder reads one in front, whatever follows. -/

namespace Sys2Proof

theorem leadingZeros_zero (W : Nat) : leadingZeros 0 W = 0 := rfl

theorem leadingZeros_valueOf_true (fuel : Nat) (l : List Bool) :
    leadingZeros (fuel + 1) (valueOf (true :: l)) = 0 :=
  if_pos (valueOf_cons_mod_two true l)

theorem leadingZeros_valueOf_false (fuel : Nat) (l : List Bool) :
    leadingZeros (fuel + 1) (valueOf (false :: l)) = leadingZeros fuel (valueOf l) + 1 := by
  have h : ¬ valueOf (false :: l) % 2 = 1 := by
    rw [valueOf_cons_mod_two]
    decide
  rw [leadingZeros, if_neg h, valueOf_cons_div_two]

@[simp] theorem length_prefixBits (c : Cls) : (prefixBits c).length = prefixSize c := length_bitsOf _ _

theorem prefixSize_le (c : Cls) : prefixSize c ≤ 9 := by
  revert c
  decide

/-- Each row of the code table: its zeros are counted up to the first one, and the bit after that one tells two rows apart. -/
theorem decodePrefix_prefixBits (c : Cls) (rest : List Bool) :
    decodePrefix (valueOf (prefixBits c ++ rest)) = (c, prefixSize c) := by
  fin_cases c <;>
    simp [decodePrefix, prefixBits, prefixSize, prefixMatch, bitsOf, leadingZeros_valueOf_true,
      leadingZeros_valueOf_false, leadingZeros_zero, Machine.testBit_valueOf]

/-- A codeword in front is shifted out. -/
theorem valueOf_prefixBits_shiftRight (c : Cls) (rest : List Bool) :
    valueOf (prefixBits c ++ rest) >>> prefixSize c = valueOf rest := by
  have h := valueOf_append_shiftRight (prefixBits c) rest
  rwa [length_prefixBits] at h

end Sys2Proof
end

section
/-! SUPPORT. What is well formed in each place (30_encoding.md R66 to R74), and the length of its encoding (R60). -/

namespace Sys2Proof

variable {c : FetchCtx} {i : Instr}

/-- What stands on the command port is a command (R74). -/
theorem commandCode_of_wellFormed_port (h : wellFormed .port i = true) : commandCode i ≠ none := by
  cases i with
  | construct _ | readNext | readLine | finalizeLine | lineA | lineB | reserved _ => exact nofun
  | hdrL _ | hdrF _ _ | hdrK _ | hdrD _ _ | pfx0 | pfx1 | pfx2 | pfx3 | pfx4 | pfx5 | pfx6 | pfx7 | pfx8 | pfx9
  | pfx10 | pfx11 | pfx12 | vlpair _ _ _ _ | rawpair _ _ | pad => cases h

theorem headerInstr_of_wellFormed {lossless first : Bool} (h : wellFormed (.header lossless first) i = true) :
    ∃ hdr, i = headerInstr hdr := by
  cases i with
  | hdrL m => exact ⟨.L m, rfl⟩
  | hdrF d m => exact ⟨.F d m, rfl⟩
  | hdrK m => exact ⟨.K m, rfl⟩
  | hdrD code m => exact ⟨.D code m, rfl⟩
  | construct _ | readNext | readLine | finalizeLine | lineA | lineB | reserved _ | pfx0 | pfx1 | pfx2 | pfx3 | pfx4
  | pfx5 | pfx6 | pfx7 | pfx8 | pfx9 | pfx10 | pfx11 | pfx12 | vlpair _ _ _ _ | rawpair _ _ | pad => cases h

theorem vlInstr_of_wellFormed {ka kb f : Nat} (h : wellFormed (.vlpair ka kb f) i = true) :
    ∃ p : VlFields, i = vlInstr p ∧ p.wellFormed ka kb f = true := by
  cases i with
  | vlpair ca lsa cb lsb => exact ⟨⟨ca, lsa, cb, lsb⟩, rfl, h⟩
  | construct _ | readNext | readLine | finalizeLine | lineA | lineB | reserved _ | hdrL _ | hdrF _ _ | hdrK _
  | hdrD _ _ | pfx0 | pfx1 | pfx2 | pfx3 | pfx4 | pfx5 | pfx6 | pfx7 | pfx8 | pfx9 | pfx10 | pfx11 | pfx12
  | rawpair _ _ | pad => cases h

theorem rawpair_of_wellFormed {f : Nat} (h : wellFormed (.rawpair f) i = true) :
    ∃ v1 v2, i = .rawpair v1 v2 ∧ v1 < 2 ^ f ∧ v2 < 2 ^ f ∧ f ≤ 16 := by
  cases i with
  | rawpair v1 v2 =>
    simp only [wellFormed, Bool.and_eq_true, decide_eq_true_eq, and_assoc] at h
    exact ⟨v1, v2, rfl, h⟩
  | construct _ | readNext | readLine | finalizeLine | lineA | lineB | reserved _ | hdrL _ | hdrF _ _ | hdrK _
  | hdrD _ _ | pfx0 | pfx1 | pfx2 | pfx3 | pfx4 | pfx5 | pfx6 | pfx7 | pfx8 | pfx9 | pfx10 | pfx11 | pfx12
  | vlpair _ _ _ _ | pad => cases h

theorem pad_of_wellFormed {n : Nat} (h : wellFormed (.pad n) i = true) : i = .pad := by
  cases i with
  | pad => rfl
  | construct _ | readNext | readLine | finalizeLine | lineA | lineB | reserved _ | hdrL _ | hdrF _ _ | hdrK _
  | hdrD _ _ | pfx0 | pfx1 | pfx2 | pfx3 | pfx4 | pfx5 | pfx6 | pfx7 | pfx8 | pfx9 | pfx10 | pfx11 | pfx12
  | vlpair _ _ _ _ | rawpair _ _ => cases h

theorem codewordInstr_of_wellFormed (h : wellFormed .codeword i = true) : ∃ cls, i = codewordInstr cls := by
  cases i with
  | pfx0 => exact ⟨0, rfl⟩
  | pfx1 => exact ⟨1, rfl⟩
  | pfx2 => exact ⟨2, rfl⟩
  | pfx3 => exact ⟨3, rfl⟩
  | pfx4 => exact ⟨4, rfl⟩
  | pfx5 => exact ⟨5, rfl⟩
  | pfx6 => exact ⟨6, rfl⟩
  | pfx7 => exact ⟨7, rfl⟩
  | pfx8 => exact ⟨8, rfl⟩
  | pfx9 => exact ⟨9, rfl⟩
  | pfx10 => exact ⟨10, rfl⟩
  | pfx11 => exact ⟨11, rfl⟩
  | pfx12 => exact ⟨12, rfl⟩
  | construct _ | readNext | readLine | finalizeLine | lineA | lineB | reserved _ | hdrL _ | hdrF _ _ | hdrK _
  | hdrD _ _ | vlpair _ _ _ _ | rawpair _ _ | pad => cases h

/-- A VL pair is well formed when each LSB field fits its width and the pair fits the window (R67, R73). -/
theorem vlFields_wellFormed_iff {ka kb f : Nat} {p : VlFields} : p.wellFormed ka kb f = true ↔
    p.lsa < 2 ^ lsbWidth p.ca ka f ∧ p.lsb < 2 ^ lsbWidth p.cb kb f ∧
      prefixSize p.ca + prefixSize p.cb + lsbWidth p.ca ka f + lsbWidth p.cb kb f ≤ Config.peekBits := by
  simp only [VlFields.wellFormed, Bool.and_eq_true, decide_eq_true_eq, and_assoc]

theorem encodeBits_codewordInstr (c : FetchCtx) (cls : Cls) : encodeBits c (codewordInstr cls) = prefixBits cls := by
  fin_cases cls <;> rfl

theorem encodeBits_vlInstr (ka kb f : Nat) (p : VlFields) :
    encodeBits (.vlpair ka kb f) (vlInstr p) = encodeVlpair ka kb f p := rfl

@[simp] theorem length_encodeVlpair (ka kb f : Nat) (p : VlFields) : (encodeVlpair ka kb f p).length =
    prefixSize p.ca + prefixSize p.cb + lsbWidth p.ca ka f + lsbWidth p.cb kb f := by
  simp only [encodeVlpair, List.length_append, length_prefixBits, length_bitsOf, Nat.add_assoc]

theorem length_encodeBits_headerInstr_le (c : FetchCtx) (hdr : Header) :
    (encodeBits c (headerInstr hdr)).length ≤ 5 := by
  cases hdr <;> simp [encodeBits, headerInstr]

/-- Every element but the padding fits the peek window (R73). -/
theorem length_encodeBits_le (hport : c ≠ .port) (hpad : ∀ n, c ≠ .pad n) (h : wellFormed c i = true) :
    (encodeBits c i).length ≤ Config.peekBits := by
  cases c with
  | port => exact absurd rfl hport
  | pad n => exact absurd rfl (hpad n)
  | header lossless first =>
    obtain ⟨hdr, rfl⟩ := headerInstr_of_wellFormed h
    exact (length_encodeBits_headerInstr_le _ hdr).trans (by decide)
  | vlpair ka kb f =>
    obtain ⟨p, rfl, hp⟩ := vlInstr_of_wellFormed h
    obtain ⟨-, -, hwindow⟩ := vlFields_wellFormed_iff.mp hp
    exact (length_encodeVlpair ka kb f p).trans_le hwindow
  | rawpair f =>
    obtain ⟨v1, v2, rfl, -, -, hf⟩ := rawpair_of_wellFormed h
    rw [encodeBits, List.length_append, length_bitsOf, length_bitsOf, Config.peekBits]
    omega
  | codeword =>
    obtain ⟨cls, rfl⟩ := codewordInstr_of_wellFormed h
    rw [encodeBits_codewordInstr, length_prefixBits]
    exact (prefixSize_le cls).trans (by decide)

end Sys2Proof
end

section
/-! SUPPORT. The decoder after the encoder, place by place (30_encoding.md R62 to R74). -/

namespace Sys2Proof

variable {c : FetchCtx} {i : Instr}

theorem decodeCommand_of_commandCode {cmd : BitVec 3} (h : commandCode i = some cmd) :
    decodeCommand cmd (commandArg i) = i := by
  cases i with
  | construct _ | readNext | readLine | finalizeLine | lineA | lineB =>
    cases h
    rfl
  | reserved odd =>
    cases h
    cases odd <;> rfl
  | hdrL _ | hdrF _ _ | hdrK _ | hdrD _ _ | pfx0 | pfx1 | pfx2 | pfx3 | pfx4 | pfx5 | pfx6 | pfx7 | pfx8 | pfx9
  | pfx10 | pfx11 | pfx12 | vlpair _ _ _ _ | rawpair _ _ | pad => cases h

/-- The flags of the place and, at a later header, the first bit choose the form it was written in (R66). -/
theorem decodeHeader_encodeBits {lossless first : Bool} {hdr : Header}
    (h : wellFormed (.header lossless first) (headerInstr hdr) = true) (rest : List Bool) :
    decodeHeader lossless first (valueOf (encodeBits (.header lossless first) (headerInstr hdr) ++ rest)) = hdr := by
  cases hdr with
  | L m =>
    obtain rfl : lossless = true := h
    simp [decodeHeader, headerInstr, encodeBits, valueOf_cons_mod_two]
  | F d m =>
    obtain ⟨rfl, rfl⟩ : lossless = false ∧ first = true := by simpa [wellFormed, headerInstr] using h
    simp [decodeHeader, headerInstr, encodeBits, Machine.testBit_valueOf, ofNat_valueOf_bitsOf]
  | K m =>
    obtain ⟨rfl, rfl⟩ : lossless = false ∧ first = false := by simpa [wellFormed, headerInstr] using h
    simp [decodeHeader, headerInstr, encodeBits, Machine.testBit_valueOf, valueOf_cons_mod_two]
  | D code m =>
    obtain ⟨rfl, rfl⟩ : lossless = false ∧ first = false := by simpa [wellFormed, headerInstr] using h
    have hcode (l : List Bool) : valueOf (true :: l) >>> 1 = valueOf l := valueOf_append_shiftRight [true] l
    simp [decodeHeader, headerInstr, encodeBits, Machine.testBit_valueOf, ofNat_valueOf_bitsOf, hcode,
      valueOf_cons_mod_two]

/-- Each field of a VL pair is read at the low end of what the fields before it leave (R67). -/
theorem decodeVlpair_encodeVlpair {ka kb f : Nat} {p : VlFields} (ha : p.lsa < 2 ^ lsbWidth p.ca ka f)
    (hb : p.lsb < 2 ^ lsbWidth p.cb kb f) (rest : List Bool) :
    decodeVlpair ka kb f (valueOf (encodeVlpair ka kb f p ++ rest)) = p := by
  simp only [decodeVlpair, encodeVlpair, List.append_assoc, decodePrefix_prefixBits, valueOf_prefixBits_shiftRight,
    valueOf_bitsOf_shiftRight, lowBits_valueOf_bitsOf, lowBits_of_lt ha, lowBits_of_lt hb]

theorem decodeRawpair_bitsOf {f v1 v2 : Nat} (h1 : v1 < 2 ^ f) (h2 : v2 < 2 ^ f) (rest : List Bool) :
    decodeRawpair f (valueOf (bitsOf f v1 ++ bitsOf f v2 ++ rest)) = (v1, v2) := by
  rw [List.append_assoc, decodeRawpair, lowBits_valueOf_bitsOf, valueOf_bitsOf_shiftRight, lowBits_valueOf_bitsOf,
    lowBits_of_lt h1, lowBits_of_lt h2]

/-- In its place an element is decoded from its own bits and any bits after them. -/
theorem decodeElement_encodeBits (hport : c ≠ .port) (h : wellFormed c i = true) (rest : List Bool) :
    decodeElement c (valueOf (encodeBits c i ++ rest)) = .ok i := by
  cases c with
  | port => exact absurd rfl hport
  | header lossless first =>
    obtain ⟨hdr, rfl⟩ := headerInstr_of_wellFormed h
    rw [decodeElement, decodeHeader_encodeBits h]
  | vlpair ka kb f =>
    obtain ⟨p, rfl, hp⟩ := vlInstr_of_wellFormed h
    obtain ⟨ha, hb, -⟩ := vlFields_wellFormed_iff.mp hp
    rw [decodeElement, encodeBits_vlInstr, decodeVlpair_encodeVlpair ha hb]
  | rawpair f =>
    obtain ⟨v1, v2, rfl, h1, h2, -⟩ := rawpair_of_wellFormed h
    rw [decodeElement, encodeBits, decodeRawpair_bitsOf h1 h2]
  | pad n => rw [decodeElement, pad_of_wellFormed h]
  | codeword =>
    obtain ⟨cls, rfl⟩ := codewordInstr_of_wellFormed h
    rw [decodeElement, encodeBits_codewordInstr, decodePrefix_prefixBits]

/-- An element that fits the window is read whole, and what follows fills the window (20_memory.md R42). -/
theorem decode_append_of_length_le {bs : List Bool} (h : bs.length ≤ Config.peekBits) (c : FetchCtx)
    (rest : List Bool) : decode c (.bits (bs ++ rest)) =
      decodeElement c (valueOf (bs ++ rest.take (Config.peekBits - bs.length))) := by
  rw [decode, List.take_append, List.take_of_length_le h]

theorem decode_encodeBits (hport : c ≠ .port) (h : wellFormed c i = true) (rest : List Bool) :
    decode c (.bits (encodeBits c i ++ rest)) = .ok i := by
  by_cases hpad : ∃ n, c = .pad n
  · obtain ⟨n, rfl⟩ := hpad
    rw [pad_of_wellFormed h, decode, decodeElement]
  · have hlen := length_encodeBits_le hport (fun n hn => hpad ⟨n, hn⟩) h
    rw [decode_append_of_length_le hlen, decodeElement_encodeBits hport h]

theorem encode_of_commandCode_none (h : commandCode i = none) (c : FetchCtx) : encode c i = .bits (encodeBits c i) := by
  rw [encode, h]

theorem encode_of_commandCode_some {cmd : BitVec 3} (h : commandCode i = some cmd) (c : FetchCtx) :
    encode c i = .port cmd (commandArg i) := by
  rw [encode, h]

end Sys2Proof
end

section
/-! SUPPORT. Every bit string is an element of its place (30_encoding.md R73, R94), and when it is well formed there. -/

namespace Sys2Proof

theorem commandCode_codewordInstr (cls : Cls) : commandCode (codewordInstr cls) = none := by
  fin_cases cls <;> rfl

theorem wellFormed_codewordInstr (cls : Cls) : wellFormed .codeword (codewordInstr cls) = true := by
  fin_cases cls <;> rfl

theorem commandCode_headerInstr (hdr : Header) : commandCode (headerInstr hdr) = none := by
  cases hdr <;> rfl

/-- The form chosen is one that can stand there (R66). -/
theorem wellFormed_decodeHeader (lossless first : Bool) (W : Nat) :
    wellFormed (.header lossless first) (headerInstr (decodeHeader lossless first W)) = true := by
  cases lossless with
  | true => rfl
  | false =>
    cases first with
    | true => rfl
    | false =>
      have hform : decodeHeader false false W = if W.testBit 0 = false then .K (W.testBit 1)
        else .D (BitVec.ofNat 2 (W >>> 1)) (W.testBit 3) := rfl
      rw [hform]
      split <;> rfl

theorem wellFormed_decodeRawpair {f : Nat} (hf : f ≤ 16) (W : Nat) :
    wellFormed (.rawpair f) (.rawpair (decodeRawpair f W).1 (decodeRawpair f W).2) = true := by
  simp only [wellFormed, decodeRawpair, lowBits_lt, hf, decide_true, Bool.and_self]

/-- The LSB fields that are read fit their widths, so only the window is left to ask for (R73). -/
theorem wellFormed_decodeVlpair_iff {ka kb f W : Nat} : (decodeVlpair ka kb f W).wellFormed ka kb f = true ↔
    prefixSize (decodeVlpair ka kb f W).ca + prefixSize (decodeVlpair ka kb f W).cb +
      lsbWidth (decodeVlpair ka kb f W).ca ka f + lsbWidth (decodeVlpair ka kb f W).cb kb f ≤ Config.peekBits := by
  have ha : (decodeVlpair ka kb f W).lsa < 2 ^ lsbWidth (decodeVlpair ka kb f W).ca ka f := lowBits_lt _ _
  have hb : (decodeVlpair ka kb f W).lsb < 2 ^ lsbWidth (decodeVlpair ka kb f W).cb kb f := lowBits_lt _ _
  simp only [vlFields_wellFormed_iff, ha, hb, true_and]

theorem lsbWidth_escape (k f : Nat) : lsbWidth 12 k f = f := rfl

theorem lsbWidth_plain {c : Cls} (h : c ≠ 12) (k f : Nat) : lsbWidth c k f = k := if_neg h

theorem prefixSize_escape : prefixSize 12 = 9 := rfl

theorem lsbWidth_le {k f n : Nat} (hk : k ≤ n) (hf : f ≤ n) (c : Cls) : lsbWidth c k f ≤ n := by
  unfold lsbWidth
  split
  · exact hf
  · exact hk

/-- With `f` at most 15 two prefixes and two LSB fields fit the window. -/
theorem vlpair_fits_window {ka kb f : Nat} (hka : ka ≤ 6) (hkb : kb ≤ 6) (hf : f ≤ 15) (ca cb : Cls) :
    prefixSize ca + prefixSize cb + lsbWidth ca ka f + lsbWidth cb kb f ≤ Config.peekBits := by
  have ha := lsbWidth_le (hka.trans (by decide)) hf ca
  have hb := lsbWidth_le (hkb.trans (by decide)) hf cb
  have hca := prefixSize_le ca
  have hcb := prefixSize_le cb
  unfold Config.peekBits
  omega

/-- With `f = 16` two escapes are two bits too many, and nothing else is (60_exceptions.md R197). -/
theorem vlpair_fits_window_iff {ka kb : Nat} (hka : ka ≤ 6) (hkb : kb ≤ 6) (ca cb : Cls) :
    prefixSize ca + prefixSize cb + lsbWidth ca ka 16 + lsbWidth cb kb 16 ≤ Config.peekBits ↔
      ¬ (ca = 12 ∧ cb = 12) := by
  have hca := prefixSize_le ca
  have hcb := prefixSize_le cb
  have hwa := lsbWidth_le (f := 16) (hka.trans (by decide)) le_rfl ca
  have hwb := lsbWidth_le (f := 16) (hkb.trans (by decide)) le_rfl cb
  unfold Config.peekBits
  by_cases ha : ca = 12
  · by_cases hb : cb = 12
    · simp only [ha, hb, lsbWidth_escape, prefixSize_escape]
      decide
    · rw [lsbWidth_plain hb]
      simp only [hb, and_false, not_false_eq_true, iff_true]
      omega
  · rw [lsbWidth_plain ha]
    simp only [ha, false_and, not_false_eq_true, iff_true]
    omega

/-- A VL pair is two escapes when both its classes are 12. -/
theorem ne_vlpair_escapes_iff {p : VlFields} :
    (∀ lsa lsb, vlInstr p ≠ .vlpair 12 lsa 12 lsb) ↔ ¬ (p.ca = 12 ∧ p.cb = 12) := by
  constructor
  · rintro h ⟨ha, hb⟩
    exact h p.lsa p.lsb (by rw [vlInstr, ha, hb])
  · intro h lsa lsb heq
    obtain ⟨ha, -, hb, -⟩ := Instr.vlpair.inj heq
    exact h ⟨ha, hb⟩

theorem decode_bits (c : FetchCtx) (bs : List Bool) :
    decode c (.bits bs) = decodeElement c (valueOf (bs.take Config.peekBits)) := rfl

end Sys2Proof
end

section
/-! SUPPORT. The place of an element, by what the sequencer fetches and the mode of the block (10_state.md R14, 30_encoding.md
R66, R67). -/

namespace Sys2Proof.Machine

variable {s : State}

theorem fetchCtx_header (h : s.seq = .header) :
    fetchCtx s = .header s.params.lossless (s.readValuesCount == 0) := by
  rw [fetchCtx, h]

theorem fetchCtx_rawpair (h : s.seq = .pair) (hm : s.decodingMode = true) : fetchCtx s = .rawpair s.bp.f := by
  rw [fetchCtx, h]
  exact if_pos hm

theorem fetchCtx_vlpair (h : s.seq = .pair) (hm : s.decodingMode = false) :
    fetchCtx s = .vlpair (lsbK s.ctxA.g) (lsbK s.ctxB.g) s.bp.f := by
  rw [fetchCtx, h]
  exact if_neg (by rw [hm]; decide)

theorem fetchCtx_pad (h : s.seq = .pad) : fetchCtx s = .pad (padBits s.params.alignMode s.pos) := by
  rw [fetchCtx, h]

theorem fetchCtx_codeword (h : s.seq = .codeword) : fetchCtx s = .codeword := by
  rw [fetchCtx, h]

theorem lsbK_le (x : Nat) : lsbK x ≤ 6 := by
  unfold lsbK
  repeat' split
  all_goals decide

end Sys2Proof.Machine
end

section
/-! SUPPORT. Values and residuals: the two forms of a value (42_block_vl.md R115), and `RES` (30_encoding.md R76) against the
residual map (R117) and the reconstruction in a block of `a = 0` (R118). -/

namespace Sys2Proof.Machine

theorem sampleValue_escape (l lsb : Nat) : sampleValue 12 l lsb = lsb + 1 := rfl

/-- A plain class and its LSB field are the quotient and the remainder of the value. -/
theorem sampleValue_plain {c : Cls} {k v : Nat} (hv : v / 2 ^ k = c.val) (hc : c.val ≤ 11) :
    sampleValue c k (v % 2 ^ k) = v := by
  have hplain : c ≠ Config.escapeClass := by
    rintro rfl
    exact absurd hc (by decide)
  calc sampleValue c k (v % 2 ^ k)
      = c.val <<< k ||| v % 2 ^ k := if_neg hplain
    _ = c.val <<< k + v % 2 ^ k := (Nat.shiftLeft_add_eq_or_of_lt (Nat.mod_lt v (Nat.two_pow_pos k)) c.val).symm
    _ = v := by rw [Nat.shiftLeft_eq, ← hv, Nat.div_add_mod']

/-- Of the class and the LSB field a component uses only their value. -/
theorem vlSample_congr {cls cls' : Cls} {l lsb l' lsb' : Nat} (h : sampleValue cls l lsb = sampleValue cls' l' lsb')
    (P : Parameters) (bp : BlockParams) (k : Nat) (c : Ctx) :
    vlSample P bp cls l lsb k c = vlSample P bp cls' l' lsb' k c := by
  simp only [vlSample, h]

theorem residualOf_even (n : Nat) : residualOf (2 * n) = n := by
  simp only [residualOf, Nat.and_one_is_mod, Nat.shiftRight_one]
  rw [if_neg (by omega)]
  omega

theorem residualOf_odd (n : Nat) : residualOf (2 * n + 1) = -(n : Int) - 1 := by
  simp only [residualOf, Nat.and_one_is_mod, Nat.shiftRight_one]
  rw [if_pos (by omega)]
  omega

/-- The value that codes a residual (`RES`, R76). -/
def residualCode (r : Int) : Nat := if 0 ≤ r then (2 * r).toNat else (-2 * r - 1).toNat

theorem residualOf_residualCode (r : Int) : residualOf (residualCode r) = r := by
  unfold residualCode
  split
  · next hr =>
    obtain ⟨n, rfl⟩ := Int.eq_ofNat_of_zero_le hr
    exact residualOf_even n
  · next hr =>
    obtain ⟨n, hn⟩ := Int.eq_ofNat_of_zero_le (a := -r - 1) (by omega)
    have hcode : (-2 * r - 1).toNat = 2 * n + 1 := by omega
    rw [hcode, residualOf_odd]
    omega

theorem clamp_of_mem {x lo hi : Int} (hlo : lo ≤ x) (hhi : x ≤ hi) : clamp x lo hi = x := by
  rw [clamp, if_neg (by omega), if_neg (by omega)]

/-- In the range nothing is folded (44_predictor_unmod.md R143). -/
theorem unmod_of_mem {x off range : Int} (step n : Int) (hlo : -range ≤ x) (hhi : x ≤ range + off) :
    unmod x step off range n = x := by
  rw [unmod, if_neg (by omega), if_neg (by omega)]

/-- With `a = 0` the residual is added as it is, and a pixel in range is neither folded nor cut. -/
theorem reconstruct_blockParams_zero (P : Parameters) {M p : Int} {value : Nat} {c : Ctx}
    (h : residualOf value + prediction c = p) (hlo : 0 ≤ p) (hhi : p ≤ M) :
    reconstruct (blockParams P 0) M value c = p := by
  have hb : (blockParams P 0).b = 1 := rfl
  have hc : (blockParams P 0).c = 0 := rfl
  rw [reconstruct, hb, hc, Nat.cast_one, one_mul, h, unmod_of_mem _ _ (by omega) (by omega), clamp_of_mem hlo hhi]

end Sys2Proof.Machine
end

section
/-! The statements of 30_encoding.md, settled. -/

namespace Sys2Proof.Machine

/-- Settles O1: a command is read back from its code, an element by `decode_encodeBits`. -/
theorem decodeReadsBackWhatEncodeWrites : Obligations.DecodeReadsBackWhatEncodeWrites := by
  intro c i h
  by_cases hport : c = .port
  · subst hport
    obtain ⟨cmd, hcmd⟩ := Option.ne_none_iff_exists'.mp (commandCode_of_wellFormed_port h)
    rw [encode_of_commandCode_some hcmd]
    exact ⟨congrArg Except.ok (decodeCommand_of_commandCode hcmd), nofun⟩
  · rw [encode_of_commandCode_none (commandCode_of_wellFormed hport h)]
    refine ⟨?_, fun bs rest hbs => ?_⟩
    · have hnil := decode_encodeBits hport h []
      rwa [List.append_nil] at hnil
    · cases hbs
      exact decode_encodeBits hport h rest

/-- Settles O4: the lengths of the fields, place by place. -/
theorem encodedElementsHaveTheTablesLengths : Obligations.EncodedElementsHaveTheTablesLengths := by
  intro c i h hcmd
  cases c with
  | port => exact absurd hcmd (commandCode_of_wellFormed_port h)
  | header lossless first =>
    obtain ⟨hdr, rfl⟩ := headerInstr_of_wellFormed h
    cases hdr <;> rfl
  | vlpair ka kb f =>
    obtain ⟨p, rfl, -⟩ := vlInstr_of_wellFormed h
    exact length_encodeVlpair ka kb f p
  | rawpair f =>
    obtain ⟨v1, v2, rfl, -⟩ := rawpair_of_wellFormed h
    rw [encodeBits, List.length_append, length_bitsOf, length_bitsOf]
    exact (Nat.two_mul f).symm
  | pad n =>
    obtain rfl := pad_of_wellFormed h
    exact List.length_replicate
  | codeword =>
    obtain ⟨cls, rfl⟩ := codewordInstr_of_wellFormed h
    fin_cases cls <;> rfl

/-- Settles O48: place by place, what is decoded is an element that can stand there. -/
theorem everyBitStringParses : Obligations.EveryBitStringParses := by
  intro s bs hseq
  rw [decode_bits]
  generalize valueOf (bs.take Config.peekBits) = W
  cases hq : s.seq with
  | command => exact absurd hq hseq
  | header =>
    rw [fetchCtx_header hq]
    exact ⟨_, rfl, commandCode_headerInstr _, fun _ => wellFormed_decodeHeader _ _ W, nofun, nofun, nofun⟩
  | pad =>
    rw [fetchCtx_pad hq]
    exact ⟨_, rfl, rfl, fun _ => rfl, nofun, nofun, nofun⟩
  | codeword =>
    rw [fetchCtx_codeword hq]
    exact ⟨_, rfl, commandCode_codewordInstr _, fun _ => wellFormed_codewordInstr _, nofun, nofun, nofun⟩
  | pair =>
    cases hm : s.decodingMode with
    | true =>
      rw [fetchCtx_rawpair hq hm]
      exact ⟨_, rfl, rfl, fun h => absurd rfl h, fun _ _ hf => wellFormed_decodeRawpair hf W, nofun, nofun⟩
    | false =>
      rw [fetchCtx_vlpair hq hm]
      refine ⟨_, rfl, rfl, fun h => absurd rfl h, nofun, fun _ _ hf => ?_, fun _ _ hf => ?_⟩
      · exact wellFormed_decodeVlpair_iff.mpr (vlpair_fits_window (lsbK_le _) (lsbK_le _) hf _ _)
      · rw [hf, ne_vlpair_escapes_iff]
        exact wellFormed_decodeVlpair_iff.trans (vlpair_fits_window_iff (lsbK_le _) (lsbK_le _) _ _)

/-- Settles O16: both forms have the value `v`. -/
theorem escapeAndPlainFormsDecodeAlike : Obligations.EscapeAndPlainFormsDecodeAlike := by
  intro P bp k v c cls h1 _ hv hcls
  have hescape : sampleValue 12 bp.f (v - 1) = v :=
    (sampleValue_escape _ _).trans (Nat.sub_add_cancel h1)
  exact vlSample_congr ((sampleValue_plain hv hcls).trans hescape.symm) P bp k c

/-- Settles O17: the residual map undoes `RES`, and the prediction cancels. -/
theorem residualReachesEverySampleLosslessly : Obligations.ResidualReachesEverySampleLosslessly := by
  intro P c p _ hlo hhi
  have hres : residualOf (residualCode (p - prediction c)) + prediction c = p := by
    rw [residualOf_residualCode]
    omega
  exact reconstruct_blockParams_zero P hres hlo hhi

/-- Settles O3: each word, decoded. -/
theorem writtenOutWordsDecode : Obligations.WrittenOutWordsDecode :=
  ⟨rfl, rfl, rfl, rfl, rfl, rfl, rfl, rfl, rfl⟩

end Sys2Proof.Machine
end

section
/-! SUPPORT. The prefix decoder as a recognizer (40_prefix_code.md R80, 30_encoding.md R68): every window begins with the
codeword of the class decoded from it, and with no other, the code being prefix-free. -/

namespace Sys2Proof

theorem leadingZeros_le (fuel W : Nat) : leadingZeros fuel W ≤ fuel := by
  induction fuel generalizing W with
  | zero => exact le_rfl
  | succ fuel ih =>
    rw [leadingZeros]
    split
    · exact Nat.zero_le _
    · exact Nat.succ_le_succ (ih _)

/-- The bits counted are zero. -/
theorem mod_two_pow_leadingZeros (fuel W : Nat) : W % 2 ^ leadingZeros fuel W = 0 := by
  induction fuel generalizing W with
  | zero => exact Nat.mod_one W
  | succ fuel ih =>
    rw [leadingZeros]
    split
    next => exact Nat.mod_one W
    next hodd => rw [pow_succ', Nat.mod_mul, ih, Nat.mod_two_ne_one.mp hodd]

/-- A count that stops short stops at a one. -/
theorem testBit_leadingZeros {fuel W : Nat} (h : leadingZeros fuel W < fuel) : W.testBit (leadingZeros fuel W) = true := by
  induction fuel generalizing W with
  | zero => exact absurd h (Nat.not_lt_zero _)
  | succ fuel ih =>
    rw [leadingZeros] at h ⊢
    split at h
    next hodd => rw [if_pos hodd, Nat.testBit_zero, decide_eq_true hodd]
    next hodd => rw [if_neg hodd, Nat.testBit_succ, ih (Nat.lt_of_succ_lt_succ h)]

/-- A count that stops short, as a value of the low bits: the zeros, then the one. -/
theorem mod_of_leadingZeros {fuel W i : Nat} (h : leadingZeros fuel W = i) (hi : i < fuel) : W % 2 ^ (i + 1) = 2 ^ i := by
  subst h
  rw [Nat.mod_pow_succ, ← Nat.toNat_testBit, mod_two_pow_leadingZeros, testBit_leadingZeros hi,
    Bool.toNat_true, mul_one, zero_add]

/-- The same with the tail bit behind the one. -/
theorem mod_tail_of_leadingZeros {fuel W i : Nat} (h : leadingZeros fuel W = i) (hi : i < fuel) :
    W % 2 ^ (i + 2) = 2 ^ i + 2 ^ (i + 1) * (W.testBit (i + 1)).toNat := by
  rw [Nat.mod_pow_succ, ← Nat.toNat_testBit, mod_of_leadingZeros h hi]

/-- What is decoded is a row of the code table, and the window begins with that row's codeword. -/
theorem decodePrefix_sound (W : Nat) :
    ∃ c, decodePrefix W = (c, prefixSize c) ∧ W % 2 ^ prefixSize c = prefixMatch c := by
  have hle := leadingZeros_le 9 W
  have hzeros := mod_two_pow_leadingZeros 9 W
  unfold decodePrefix
  generalize hi : leadingZeros 9 W = i at hle hzeros
  match i, hle with
  | 0, _ => exact ⟨0, rfl, mod_of_leadingZeros hi (by decide)⟩
  | 1, _ => exact ⟨1, rfl, mod_of_leadingZeros hi (by decide)⟩
  | 2, _ => exact ⟨2, rfl, mod_of_leadingZeros hi (by decide)⟩
  | 3, _ => exact ⟨3, rfl, mod_of_leadingZeros hi (by decide)⟩
  | 4, _ => exact ⟨4, rfl, mod_of_leadingZeros hi (by decide)⟩
  | 5, _ =>
    have htail := mod_tail_of_leadingZeros hi (by decide)
    cases ht : W.testBit 6 <;> simp only [ht] at htail ⊢
    · exact ⟨5, rfl, htail⟩
    · exact ⟨6, rfl, htail⟩
  | 6, _ =>
    have htail := mod_tail_of_leadingZeros hi (by decide)
    cases ht : W.testBit 7 <;> simp only [ht] at htail ⊢
    · exact ⟨7, rfl, htail⟩
    · exact ⟨8, rfl, htail⟩
  | 7, _ =>
    have htail := mod_tail_of_leadingZeros hi (by decide)
    cases ht : W.testBit 8 <;> simp only [ht] at htail ⊢
    · exact ⟨11, rfl, htail⟩
    · exact ⟨12, rfl, htail⟩
  | 8, _ => exact ⟨10, rfl, mod_of_leadingZeros hi (by decide)⟩
  | 9, _ => exact ⟨9, rfl, hzeros⟩

/-- No codeword begins with another one. -/
theorem prefixMatch_prefixFree (c d : Cls) (hle : prefixSize c ≤ prefixSize d)
    (h : prefixMatch d % 2 ^ prefixSize c = prefixMatch c) : c = d := by
  revert c d
  decide

/-- A window begins with one codeword only: the longer of two would begin with the shorter. -/
theorem codeword_unique {W : Nat} {c d : Cls} (hc : W % 2 ^ prefixSize c = prefixMatch c)
    (hd : W % 2 ^ prefixSize d = prefixMatch d) : c = d := by
  wlog hle : prefixSize c ≤ prefixSize d generalizing c d
  · exact (this hd hc (Nat.le_of_not_le hle)).symm
  · apply prefixMatch_prefixFree c d hle
    rw [← hd, Nat.mod_mod_of_dvd W (pow_dvd_pow 2 hle), hc]

/-- The row decoded is the one whose codeword the window begins with (R80). -/
theorem decodePrefix_eq_iff (W : Nat) (c : Cls) :
    decodePrefix W = (c, prefixSize c) ↔ W % 2 ^ prefixSize c = prefixMatch c := by
  obtain ⟨d, hdec, hd⟩ := decodePrefix_sound W
  rw [hdec]
  constructor
  · intro h
    obtain rfl : d = c := congrArg Prod.fst h
    exact hd
  · intro hc
    rw [codeword_unique hc hd]

end Sys2Proof
end

section
/-! SUPPORT. The codewords as instructions (40_prefix_code.md R81 to R93). -/

namespace Sys2Proof.Machine

/-- A codeword answers the row of the code table it is, in `result`, and changes nothing else. -/
theorem exec_codewordInstr (c : Cls) (s : State) :
    exec (codewordInstr c) s = .next { s with result := .codeword c.val (prefixSize c) } := by
  fin_cases c <;> rfl

end Sys2Proof.Machine
end

section
/-! The statements of 40_prefix_code.md, settled. -/

namespace Sys2Proof.Machine

/-- Settles O2: each row is `decodePrefix_eq_iff` at its class. -/
theorem prefixDecoderFollowsTheCodeTable : Obligations.PrefixDecoderFollowsTheCodeTable := by
  intro W
  have row := decodePrefix_eq_iff W
  exact ⟨row 0, row 1, row 2, row 3, row 4, row 5, row 6, row 7, row 8, row 11, row 12, row 10, row 9⟩

/-- Settles O25: each codeword is `exec_codewordInstr` at its class. -/
theorem codewordsReturnClassAndSize : Obligations.CodewordsReturnClassAndSize := by
  intro s
  have row (c : Cls) := exec_codewordInstr c s
  exact ⟨row 0, row 1, row 2, row 3, row 4, row 5, row 6, row 7, row 8, row 9, row 10, row 11, row 12⟩

end Sys2Proof.Machine
end

section
/-! SUPPORT. The BlockParameters, field by field (41_block_parameters.md R100 to R105), and the bounds of 00_scope.md R6
that they need. -/

namespace Sys2Proof.Machine

variable {P : Parameters}

/-- The bounds on `max_allowed_pixel_value` and `bitdepth_real` from above (00_scope.md R6). -/
theorem legalParams_pixel_bounds (h : legalParams P = true) :
    0 ≤ P.maxAllowedPixelValue.toInt ∧ P.maxAllowedPixelValue.toInt ≤ 65535 ∧ P.bitdepthReal.toInt ≤ 16 := by
  simp only [legalParams, Bool.and_eq_true, decide_eq_true_eq, and_assoc] at h
  obtain ⟨-, hlo, hhi, -, -, -, -, -, -, hdepth, -⟩ := h
  exact ⟨hlo, hhi, hdepth⟩

/-- `ceilLog2` and the powers of two are a Galois connection: what "the least exponent" says (R104). -/
theorem ceilLog2_le_iff {d e : Nat} : ceilLog2 d ≤ e ↔ d ≤ 2 ^ e := by
  unfold ceilLog2
  split
  · next hd => exact iff_of_true e.zero_le (hd.trans Nat.one_le_two_pow)
  · next hd =>
    calc Nat.log2 (d - 1) + 1 ≤ e
        ↔ d - 1 < 2 ^ e := Nat.log2_lt (by omega)
      _ ↔ d ≤ 2 ^ e := by omega

variable (P) (diff : Nat)

theorem blockParams_a : (blockParams P diff).a = diff := rfl

theorem blockParams_b : (blockParams P diff).b = 2 ^ diff := Nat.one_shiftLeft diff

theorem blockParams_b_pos : 1 ≤ (blockParams P diff).b := by
  rw [blockParams_b]
  exact Nat.one_le_two_pow

/-- The modulus step is at most `2^15`, since `a ≤ 15` (R100, R101). -/
theorem blockParams_b_le (hdiff : diff ≤ 15) : (blockParams P diff).b ≤ 32768 :=
  calc (blockParams P diff).b = 2 ^ diff := blockParams_b P diff
    _ ≤ 2 ^ 15 := Nat.pow_le_pow_right (by decide) hdiff

theorem blockParams_c :
    ((blockParams P diff).c : Int) = max 0 (((blockParams P diff).b : Int) / 2 - 1) := by
  have hc : (blockParams P diff).c = (max (0 : Int) ((((blockParams P diff).b >>> 1 : Nat) : Int) - 1)).toNat := rfl
  rw [hc, Nat.shiftRight_one]
  omega

/-- The slack is less than half a step (R102). -/
theorem blockParams_two_mul_c_lt_b : 2 * (blockParams P diff).c < (blockParams P diff).b := by
  have hc := blockParams_c P diff
  have hb := blockParams_b_pos P diff
  omega

theorem blockParams_d :
    (blockParams P diff).d =
      (2 * (blockParams P diff).c + P.maxAllowedPixelValue.toInt.toNat) / (blockParams P diff).b + 1 := by
  rw [blockParams_b, ← Nat.shiftRight_eq_div_pow]
  rfl

theorem blockParams_e : (blockParams P diff).e = ceilLog2 (blockParams P diff).d := rfl

theorem blockParams_f : (blockParams P diff).f = (P.bitdepthReal.toInt - diff).toNat := rfl

/-- The period is a multiple of `b` above `x = 2c + max_allowed_pixel_value`: `floor(x / b) * b + b > x` (R103). -/
theorem lt_blockParams_period :
    2 * (blockParams P diff).c + P.maxAllowedPixelValue.toInt.toNat <
      (blockParams P diff).b * (blockParams P diff).d := by
  rw [blockParams_d]
  exact Nat.lt_mul_div_succ _ (blockParams_b_pos P diff)

/-- The period is the first such multiple: at most one step above `x` (R103). -/
theorem blockParams_period_le :
    (blockParams P diff).b * (blockParams P diff).d ≤
      2 * (blockParams P diff).c + P.maxAllowedPixelValue.toInt.toNat + (blockParams P diff).b := by
  rw [blockParams_d, Nat.mul_add_one]
  exact Nat.add_le_add_right (Nat.mul_div_le _ _) _

/-- `DeriveParams` writes the bundle and nothing else (R106). -/
theorem deriveParams_eq (s : State) : deriveParams s = { s with bp := blockParams s.params s.bitdepthDiff } := rfl

end Sys2Proof.Machine
end

section
/-! The statements of 41_block_parameters.md, settled. -/

namespace Sys2Proof.Machine

/-- Settles O9: the witness is `blockParams`, and each field follows its rule. -/
theorem derivedParametersFollowTheRules : Obligations.DerivedParametersFollowTheRules := by
  intro s hlegal hdiff hdepth
  obtain ⟨hpix, -, hreal⟩ := legalParams_pixel_bounds hlegal
  have hf := blockParams_f s.params s.bitdepthDiff
  refine ⟨blockParams s.params s.bitdepthDiff, deriveParams_eq s, blockParams_a _ _, blockParams_b _ _,
    blockParams_b_pos _ _, blockParams_b_le _ _ hdiff, blockParams_c _ _, ?steps, ?stepsPos, ?enough,
    fun _ => ?least, ?width, ?widthLe⟩
  case steps =>
    rw [blockParams_d, blockParams_a, blockParams_b]
    push_cast
    rw [Int.toNat_of_nonneg hpix]
  case stepsPos =>
    rw [blockParams_d]
    exact Nat.succ_pos _
  case enough =>
    rw [blockParams_e]
    exact ceilLog2_le_iff.mp le_rfl
  case least =>
    rw [blockParams_e]
    exact ceilLog2_le_iff.mpr
  case width =>
    rw [blockParams_a]
    omega
  case widthLe => omega

/-- Settles O10: with `x = 2c + max_allowed_pixel_value`, `x < b * d ≤ x + b`, and `x + b < 2b + 2^16 ≤ 2^17`. -/
theorem foldingPeriodExceedsTheRange : Obligations.FoldingPeriodExceedsTheRange := by
  intro P diff hlegal hdiff
  obtain ⟨hpix, hpixLe, -⟩ := legalParams_pixel_bounds hlegal
  have hlower := lt_blockParams_period P diff
  have hupper := blockParams_period_le P diff
  have hslack := blockParams_two_mul_c_lt_b P diff
  have hstep := blockParams_b_le P diff hdiff
  constructor
  · rw [← Nat.cast_mul]
    omega
  · omega

end Sys2Proof.Machine
end

section
/-! SUPPORT. What VLPAIR computes from a value: `K` (42_block_vl.md R112), the residual map (R117), the pixel (R118) and the
new `g` (R120). -/

namespace Sys2Proof.Machine

/-! ### The LSB width -/

/-- Shifted by `i + 1`, nothing is left of a number of at most `i + 1` bits. -/
theorem div_two_pow_succ_eq_zero_iff {x i : Nat} : x / 2 ^ (i + 1) = 0 ↔ x.log2 ≤ i := by
  rw [Nat.div_eq_zero_iff_lt (Nat.two_pow_pos _), ← Nat.lt_succ_iff]
  by_cases hx : x = 0
  · subst hx
    exact iff_of_true (Nat.two_pow_pos _) (Nat.succ_pos i)
  · exact (Nat.log2_lt hx).symm

/-- `K` is the binary logarithm, capped. -/
theorem lsbK_eq_min_log2 (x : Nat) : lsbK x = min x.log2 6 := by
  have shifted (i : Nat) : x >>> (i + 1) = 0 ↔ x.log2 ≤ i := by
    rw [Nat.shiftRight_eq_div_pow, div_two_pow_succ_eq_zero_iff]
  simp only [lsbK, Config.kCap, shifted 0, shifted 1, shifted 2, shifted 3, shifted 4, shifted 5]
  split_ifs <;> omega

/-! ### The residual -/

/-- The residual map can be undone. -/
theorem residualCode_residualOf (v : Nat) : residualCode (residualOf v) = v := by
  obtain ⟨n, rfl | rfl⟩ := Nat.even_or_odd' v
  · rw [residualOf_even, residualCode, if_pos (Int.natCast_nonneg n)]
    omega
  · rw [residualOf_odd, residualCode, if_neg (by omega)]
    omega

theorem residualOf_injective : Function.Injective residualOf :=
  Function.LeftInverse.injective residualCode_residualOf

/-! ### The pixel -/

theorem clamp_mem_range {x lo hi : Int} (h : lo ≤ hi) : lo ≤ clamp x lo hi ∧ clamp x lo hi ≤ hi := by
  unfold clamp
  split_ifs <;> omega

theorem toNat_sampleOf_le (n : Nat) : (sampleOf n).toNat ≤ n := by
  rw [sampleOf, BitVec.toNat_ofNat]
  exact Nat.mod_le _ _

/-- The pixel is cut to `[0, M]` last, after the fold. -/
theorem reconstruct_mem_range (bp : BlockParams) {M : Int} (hM : 0 ≤ M) (value : Nat) (c : Ctx) :
    0 ≤ reconstruct bp M value c ∧ reconstruct bp M value c ≤ M := clamp_mem_range hM

theorem vlSample_sample (P : Parameters) (bp : BlockParams) (cls : Cls) (l lsb k : Nat) (c : Ctx) :
    (vlSample P bp cls l lsb k c).lastNew.w0 =
      sampleOf (reconstruct bp P.maxAllowedPixelValue.toInt (sampleValue cls l lsb) c).toNat := rfl

/-! ### The new `g` -/

theorem toNat_clamp_zero {n : Nat} {R : Int} (hR : 0 ≤ R) : ((clamp n 0 R).toNat : Int) = min (n : Int) R := by
  unfold clamp
  split_ifs <;> omega

/-- The new `g` is the mean of `v` and the old `g`, rounded, where `v` is the value, less 1 if its class is above 11, cut to
`max_allowed_raw_value` (R120). -/
theorem updateG_eq (value k g : Nat) {R : Int} (hR : 0 ≤ R) :
    (updateG value k g R : Int) =
      (2 * min ((if value / 2 ^ k > 11 then value - 1 else value : Nat) : Int) R + 2 * g + 2) / 4 := by
  rw [← toNat_clamp_zero hR, ← Nat.shiftRight_eq_div_pow]
  exact Int.natCast_ediv _ _

theorem updateG_of_class_le {value k g : Nat} {R : Int} (hR : 0 ≤ R) (h : value / 2 ^ k ≤ 11) :
    (updateG value k g R : Int) = (2 * min (value : Int) R + 2 * g + 2) / 4 := by
  rw [updateG_eq value k g hR, if_neg (Nat.not_lt.mpr h)]

theorem updateG_of_class_gt {value k g : Nat} {R : Int} (hR : 0 ≤ R) (h : value / 2 ^ k > 11) :
    (updateG value k g R : Int) = (2 * min ((value : Int) - 1) R + 2 * g + 2) / 4 := by
  have hpos : 1 ≤ value := by
    have := Nat.div_le_self value (2 ^ k)
    omega
  rw [updateG_eq value k g hR, if_pos h, Nat.cast_sub hpos, Nat.cast_one]

/-- A mean does not exceed the larger of the two (44_predictor_unmod.md R147). -/
theorem updateG_le {value k g n : Nat} {R : Int} (hR : 0 ≤ R) (hv : value ≤ n) (hg : g ≤ n) : updateG value k g R ≤ n := by
  have h := updateG_eq value k g hR
  have hcut : (if value / 2 ^ k > 11 then value - 1 else value) ≤ n := by split_ifs <;> omega
  omega

end Sys2Proof.Machine
end

section
/-! SUPPORT. The operations of a pixel pair on a state whose pair position exists: what LoadOld loads (42_block_vl.md R111),
what the store does to the two buffers (R123), and the whole VLPAIR (R110). -/

namespace Sys2Proof.Machine

variable {s : State}

theorem isUpperFieldLine_iff : isUpperFieldLine s = true ↔ s.currentLineIndex.toNat % 2 = 0 := by
  rw [isUpperFieldLine, beq_iff_eq, ← BitVec.toNat_inj, BitVec.toNat_and]
  exact iff_of_eq (congrArg (· = 0) (Nat.and_one_is_mod _))

theorem prevB_eq : prevB s = if s.currentLineIndex.toNat % 2 = 0 then s.lineBPrev else s.lineCPrev := by
  simp only [prevB, isUpperFieldLine_iff]

/-- `s` with the samples above the pair in slot 0 of both `last_old` windows (42_block_vl.md R111). -/
def State.withAbove (s : State) : State :=
  s.withCtx (setOld0 s.ctxA (s.above s.lineAPrev)) (setOld0 s.ctxB (s.above (prevB s)))

theorem loadOld_of_pairPositionExists (h : s.pairPositionExists) : loadOld s = .ok s.withAbove := by
  obtain ⟨-, hi, hprev⟩ := h
  rw [← prevB_eq] at hprev
  by_cases hline : s.currentLineIndex.toNat > 0
  · obtain ⟨hA, hB⟩ := hprev hline
    refine (loadOld_later hline).mpr ⟨_, _, memRead_ok hA hi, memRead_ok hB hi, ?_⟩
    simp only [State.withAbove, State.above, if_pos hline, sampleKey]
  · rw [loadOld_first (by omega)]
    simp only [State.withAbove, State.above, if_neg hline]

/-- What a sample store leaves in the buffer. -/
theorem storesSample_of_memWrite {b b' : BlockLine} {blk i : Nat} {v : Sample} (hw : b.wf = true)
    (h : memWrite b blk i v = .ok b') : storesSample b b' (sampleKey blk i) v := by
  obtain ⟨hblocks, hfill, hheaders⟩ := memWrite_shape h
  exact ⟨hblocks, hfill, hheaders, memWrite_sampleAt hw h⟩

@[simp] theorem noiseTick_ctxA : (noiseTick s).ctxA = s.ctxA := by rw [noiseTick_eq, withNoiseCount_ctxA]

@[simp] theorem noiseTick_ctxB : (noiseTick s).ctxB = s.ctxB := by rw [noiseTick_eq, withNoiseCount_ctxB]

/-- The end of a pair: with its bits read and its contexts computed, the noise tick, the shift and the store answer. -/
theorem storePair_of_pairPositionExists (h : s.pairPositionExists) (n : Nat) (ca cb : Ctx) (pa pb : Sample) : ∃ a bc,
    storePair pa pb (shiftBoth (noiseTick ((s.atPos (s.pos + n)).withCtx ca cb))) =
      .ok (afterPair n (shiftCtx ca) (shiftCtx cb) (quietPixel s.params ca) a bc s) ∧
      storesSample s.lineA a (sampleKey s.currentBlockIndex s.i) pa ∧
      storesSample s.lineBC bc (sampleKey s.currentBlockIndex s.i) pb := by
  obtain ⟨⟨hwA, hwBC, hA, hBC⟩, hi, -⟩ := h
  have ha := memWrite_ok pa hA hi
  have hbc := memWrite_ok pb hBC hi
  refine ⟨_, _, ?_, storesSample_of_memWrite hwA ha, storesSample_of_memWrite hwBC hbc⟩
  rw [noiseTick_eq, withCtx_params, withCtx_ctxA, atPos_params]
  generalize quietPixel s.params ca = q
  refine storePair_ok_iff.mpr ⟨_, _, ha, hbc, ?_⟩
  cases s
  rfl

@[simp] theorem withAbove_pos : s.withAbove.pos = s.pos := rfl

@[simp] theorem vlLength_withAbove (ca cb : Cls) : vlLength ca cb s.withAbove = vlLength ca cb s := rfl

/-- Both components are computed from the contexts alone; the cursor stays where Consume put it. -/
theorem vlSamples_withAbove_atPos (ca : Cls) (lsa : Nat) (cb : Cls) (lsb p : Nat) :
    vlSamples ca lsa cb lsb (s.withAbove.atPos p) = (s.atPos p).withCtx
      (vlSamples ca lsa cb lsb s.withAbove).ctxA (vlSamples ca lsa cb lsb s.withAbove).ctxB := rfl

/-- The next state of a VLPAIR that fits the peek window and the stream; `w` holds both components. -/
theorem vlpair_of_fits {ca cb : Cls} {lsa lsb : Nat} {w : State} (h : s.pairPositionExists)
    (hwindow : vlLength ca cb s ≤ Config.peekBits) (hstream : s.pos + vlLength ca cb s ≤ s.streamLength)
    (hw : vlSamples ca lsa cb lsb s.withAbove = w) : ∃ a bc,
      vlpair ca lsa cb lsb s = .ok (afterPair (vlLength ca cb s) (shiftCtx w.ctxA) (shiftCtx w.ctxB)
        (quietPixel s.params w.ctxA) a bc s) ∧
      storesSample s.lineA a (sampleKey s.currentBlockIndex s.i) w.ctxA.lastNew.w0 ∧
      storesSample s.lineBC bc (sampleKey s.currentBlockIndex s.i) w.ctxB.lastNew.w0 := by
  have hsamples := vlSamples_withAbove_atPos (s := s) ca lsa cb lsb (s.pos + vlLength ca cb s)
  rw [hw] at hsamples
  obtain ⟨a, bc, hok, hstored⟩ := storePair_of_pairPositionExists h (vlLength ca cb s) w.ctxA w.ctxB
    w.ctxA.lastNew.w0 w.ctxB.lastNew.w0
  refine ⟨a, bc, vlpair_ok_iff.mpr ⟨_, loadOld_of_pairPositionExists h, hwindow, hstream, _, rfl, ?_⟩, hstored⟩
  rw [withAbove_pos, vlLength_withAbove, hsamples, noiseTick_ctxA, noiseTick_ctxB]
  exact hok

theorem exec_vlpair (ca : Cls) (lsa : Nat) (cb : Cls) (lsb : Nat) (s : State) :
    exec (.vlpair ca lsa cb lsb) s = finish s (vlpair ca lsa cb lsb s) := rfl

end Sys2Proof.Machine
end

section
/-! The statements of 42_block_vl.md, settled. -/

namespace Sys2Proof.Machine

/-- Settles O11: `K` is the binary logarithm capped at 6, and a number below 128 has a logarithm of at most 6. -/
theorem lsbWidthIsTheCappedBitWidth : Obligations.LsbWidthIsTheCappedBitWidth := by
  intro x
  have hbit (i : Nat) := div_two_pow_succ_eq_zero_iff (x := x) (i := i)
  have hsix := hbit 6
  rw [lsbK_eq_min_log2]
  refine ⟨Nat.min_le_right _ _, fun i hi => ?_, fun hx => ?_, fun hx => ?_⟩
  · rw [Ne, hbit]
    omega
  · rw [hbit]
    omega
  · omega

/-- Settles O12: even and odd values, and the inverse of the map. -/
theorem residualMapIsSignInterleaved : Obligations.ResidualMapIsSignInterleaved :=
  ⟨fun n => ⟨residualOf_even n, residualOf_odd n⟩, fun _ _ h => residualOf_injective h⟩

/-- Settles O15: the range, the bound of a mean, and the two cases of the value. -/
theorem updatedEstimateStaysInRange : Obligations.UpdatedEstimateStaysInRange := by
  intro value k g R hR hg hgR
  have hR0 : 0 ≤ R := by omega
  obtain ⟨hlo, hhi⟩ := updateG_mem_range value k hR hg hgR
  exact ⟨hlo, hhi, updateG_le hR0, updateG_of_class_le hR0, updateG_of_class_gt hR0⟩

/-- Settles O18: the sample is the pixel, which was cut to its range. -/
theorem vlSamplesStayBelowTheCeiling : Obligations.VlSamplesStayBelowTheCeiling := by
  intro P bp cls l lsb k c hlegal
  obtain ⟨hM, -⟩ := legalParams_pixel_bounds hlegal
  obtain ⟨hlo, hhi⟩ := reconstruct_mem_range bp hM (sampleValue cls l lsb) c
  rw [vlSample_sample]
  have hstored := toNat_sampleOf_le (reconstruct bp P.maxAllowedPixelValue.toInt (sampleValue cls l lsb) c).toNat
  omega

/-- Settles O26: `vlpair_of_fits`, with the components written out. -/
theorem vlpairDecodesOnePixelPair : Obligations.VlpairDecodesOnePixelPair := by
  intro ca lsa cb lsb s h
  rw [← prevB_eq]
  intro ka kb la lb len oldA oldB M va vb xa xb pa pb quiet hwindow hstream
  obtain ⟨a, bc, hok, ha, hbc⟩ := vlpair_of_fits (lsa := lsa) (lsb := lsb) h hwindow hstream rfl
  refine ⟨a, bc, ?_, ha, hbc⟩
  rw [exec_vlpair, hok, finish_ok, afterPair, Bool.toNat, Bool.cond_eq_ite]
  rfl

end Sys2Proof.Machine
end

section
/-! SUPPORT. The whole RAWPAIR on a state whose pair position exists (43_block_raw.md R130): its next state, and its two reads at
the end of the stream (R135). -/

namespace Sys2Proof.Machine

variable {s : State} {v1 v2 : Nat}

/-- A raw value is stored times `2^a`, with no clamp (43_block_raw.md R131, R133). -/
theorem sampleOf_shiftLeft (v a : Nat) : sampleOf (v <<< a) = BitVec.ofNat 16 (v * 2 ^ a) := by
  rw [sampleOf, Nat.shiftLeft_eq]

@[simp] theorem withAbove_bp : s.withAbove.bp = s.bp := rfl

/-- The next state of a RAWPAIR that fits the stream; `ca` and `cb` are the contexts before the shift, and the
restore of B's newest slot comes after it (R132). -/
theorem rawpair_of_fits {pa pb : Sample} {ca cb : Ctx} (h : s.pairPositionExists)
    (hstream : s.pos + 2 * s.bp.f ≤ s.streamLength)
    (hpa : sampleOf (v1 <<< s.bp.a) = pa) (hpb : sampleOf (v2 <<< s.bp.a) = pb)
    (hca : setNew0 s.withAbove.ctxA pa = ca) (hcb : setNew0 s.withAbove.ctxB pb = cb) : ∃ a bc,
      rawpair v1 v2 s = .ok (afterPair (2 * s.bp.f) (shiftCtx ca) (setNew0 (shiftCtx cb) s.ctxB.lastNew.w0)
        (quietPixel s.params ca) a bc s) ∧
      storesSample s.lineA a (sampleKey s.currentBlockIndex s.i) pa ∧
      storesSample s.lineBC bc (sampleKey s.currentBlockIndex s.i) pb := by
  obtain ⟨a, bc, hok, hstored⟩ := storePair_of_pairPositionExists h (2 * s.bp.f) ca cb pa pb
  subst hpa hpb hca hcb
  have hpos : s.pos + 2 * s.bp.f = s.pos + s.bp.f + s.bp.f := by omega
  rw [hpos] at hstream hok
  refine ⟨a, bc, ?_, hstored⟩
  exact rawpair_ok_iff.mpr ⟨_, loadOld_of_pairPositionExists h, hstream, _, rfl, _, hok, rfl⟩

/-- With fewer than `2 f` bits left the first or the second read raises (43_block_raw.md R135). -/
theorem rawpair_of_short (h : s.pairPositionExists) (hstream : s.pos + 2 * s.bp.f > s.streamLength) :
    rawpair v1 v2 s = .error (.raised .unexpectedEndOfStream) := by
  rw [rawpair, loadOld_of_pairPositionExists h, ok_bind, withAbove_bp]
  by_cases hfirst : s.pos + s.bp.f ≤ s.streamLength
  · have hsecond : s.pos + s.bp.f + s.bp.f > s.streamLength := by omega
    rw [consume_ok (s := s.withAbove) hfirst, ok_bind, consume_error hsecond, error_bind]
  · rw [consume_error (s := s.withAbove) (Nat.not_le.mp hfirst), error_bind]

theorem exec_rawpair (v1 v2 : Nat) (s : State) : exec (.rawpair v1 v2) s = finish s (rawpair v1 v2 s) := rfl

end Sys2Proof.Machine
end

section
/-! The statement of 43_block_raw.md, settled. -/

namespace Sys2Proof.Machine

/-- Settles O28: `rawpair_of_fits` with the contexts written out, and `rawpair_of_short`. -/
theorem rawpairStoresShiftedSamples : Obligations.RawpairStoresShiftedSamples := by
  intro v1 v2 s h
  rw [← prevB_eq]
  intro oldA oldB pa pb quiet
  constructor
  · intro hstream
    obtain ⟨a, bc, hok, ha, hbc⟩ := rawpair_of_fits h hstream (sampleOf_shiftLeft v1 s.bp.a)
      (sampleOf_shiftLeft v2 s.bp.a) rfl rfl
    refine ⟨a, bc, ?_, ha, hbc⟩
    rw [exec_rawpair, hok, finish_ok, afterPair, Bool.toNat, Bool.cond_eq_ite]
    rfl
  · intro hstream
    rw [exec_rawpair, rawpair_of_short h hstream]
    exact takesFault_finish s _

end Sys2Proof.Machine
end

section
/-! SUPPORT. The predictor and the fold, one equation per case (44_predictor_unmod.md R140, R143); the case of `unmod` in range is
`unmod_of_mem`. -/

namespace Sys2Proof.Machine

/-! ### The predictor -/

section
variable {p q v : Int}

theorem fixPrediction_of_max_le (h : max p q ≤ v) : fixPrediction p q v = min p q := if_pos h

theorem fixPrediction_of_between (hlo : min p q < v) (hhi : v < max p q) : fixPrediction p q v = p + q - v := by
  rw [fixPrediction, if_neg (not_le.mpr hhi), if_pos hlo, min_add_max]

theorem fixPrediction_of_le_min (hlo : v ≤ min p q) (hhi : v < max p q) : fixPrediction p q v = max p q := by
  rw [fixPrediction, if_neg (not_le.mpr hhi), if_neg (not_lt.mpr hlo)]

/-- Only the smaller and the larger of the neighbours are used (44_predictor_unmod.md R142). -/
theorem fixPrediction_comm (p q v : Int) : fixPrediction p q v = fixPrediction q p v := by
  rw [fixPrediction, min_comm, max_comm, fixPrediction]

/-- Strictly between, `p + q - v` mirrors `v` in the middle of the neighbours, so it stays between them. -/
theorem fixPrediction_mem_Icc (p q v : Int) : fixPrediction p q v ∈ Set.Icc (min p q) (max p q) := by
  rcases le_or_gt (max p q) v with hmax | hhi
  · rw [fixPrediction_of_max_le hmax]
    exact Set.left_mem_Icc.mpr min_le_max
  rcases le_or_gt v (min p q) with hmin | hlo
  · rw [fixPrediction_of_le_min hmin hhi]
    exact Set.right_mem_Icc.mpr min_le_max
  · rw [fixPrediction_of_between hlo hhi, ← min_add_max p q]
    constructor <;> omega

end

/-! ### The fold -/

section
variable {x off range step n : Int}

theorem unmod_of_lt (h : x < -range) : unmod x step off range n = x + n * step := if_pos h

theorem unmod_of_gt (hlo : -range ≤ x) (hhi : range + off < x) : unmod x step off range n = x - n * step := by
  rw [unmod, if_neg (not_lt.mpr hlo), if_pos hhi]

/-- A fold by a period other than 0 moves every value out of range, so what `unmod` fixes is the range
(44_predictor_unmod.md R145). -/
theorem unmod_eq_self_iff (hperiod : n * step ≠ 0) :
    unmod x step off range n = x ↔ -range ≤ x ∧ x ≤ range + off := by
  refine ⟨fun hfix => ?_, fun ⟨hlo, hhi⟩ => unmod_of_mem step n hlo hhi⟩
  have hlo : -range ≤ x := not_lt.mp fun hbelow =>
    hperiod (add_eq_left.mp ((unmod_of_lt hbelow).symm.trans hfix))
  have hhi : x ≤ range + off := not_lt.mp fun habove =>
    hperiod (sub_eq_self.mp ((unmod_of_gt hlo habove).symm.trans hfix))
  exact ⟨hlo, hhi⟩

end

end Sys2Proof.Machine
end

section
/-! The statements of 44_predictor_unmod.md, settled. -/

namespace Sys2Proof.Machine

/-- Settles O13: the three cases, with `fixPrediction_comm` and `fixPrediction_mem_Icc`. -/
theorem fixPredictionIsTheFoldedMedian : Obligations.FixPredictionIsTheFoldedMedian := fun p q v =>
  ⟨fixPrediction_of_max_le, fixPrediction_of_between, fixPrediction_of_le_min, fixPrediction_comm p q v,
    fixPrediction_mem_Icc p q v⟩

/-- Settles O14: the three cases, and `unmod_eq_self_iff` for the value the first application gives. -/
theorem unmodIsIdempotentExactlyInRange : Obligations.UnmodIsIdempotentExactlyInRange := fun _ _ _ _ _ =>
  ⟨unmod_of_lt, unmod_of_gt, unmod_of_mem _ _, unmod_eq_self_iff⟩

end Sys2Proof.Machine
end

section
/-! SUPPORT. When a pixel is quiet (45_noise_estimator.md R150, R151); what the tick writes is `noiseTick_eq`. -/

namespace Sys2Proof.Machine

theorem distance_lt_iff {x y : Sample} {n : Nat} : distance x y < n ↔ |(x.toNat : Int) - y.toNat| < n := by
  rw [distance, ← Int.natCast_natAbs, Nat.cast_lt]

/-- The least of the three distances is below the threshold when one of them is. -/
theorem quietPixel_iff {P : Parameters} {A : Ctx} : quietPixel P A = true ↔
    |(A.lastNew.w0.toNat : Int) - A.lastNew.w1.toNat| < P.noiseLevelDistance.toNat ∨
    |(A.lastOld.w1.toNat : Int) - A.lastNew.w0.toNat| < P.noiseLevelDistance.toNat ∨
    |(A.lastOld.w0.toNat : Int) - A.lastNew.w0.toNat| < P.noiseLevelDistance.toNat := by
  rw [quietPixel, decide_eq_true_iff, min_lt_iff, min_lt_iff, distance_lt_iff, distance_lt_iff, distance_lt_iff]

end Sys2Proof.Machine
end

section
/-! The statement of 45_noise_estimator.md, settled. -/

namespace Sys2Proof.Machine

/-- Settles O19: `noiseTick_eq` with the condition of `quietPixel_iff`. -/
theorem noiseTickCountsQuietPixels : Obligations.NoiseTickCountsQuietPixels := by
  intro s
  simp only [← quietPixel_iff]
  rw [noiseTick_eq, Bool.toNat, Bool.cond_eq_ite]
  rfl

end Sys2Proof.Machine
end

section
/-! SUPPORT. The parity of the line and the parity that the pattern needs (46_line_decoder.md R161). -/

namespace Sys2Proof.Machine

variable {s : State}

theorem toNat_and_one (x : U32) : (x &&& 1).toNat = x.toNat % 2 := by
  rw [BitVec.toNat_and]
  exact Nat.and_one_is_mod _

/-- Both tests for the patterns that need the odd lines give the same parity. -/
theorem isNeededField_iff : isNeededField s = true ↔
    s.currentLineIndex.toNat % 2 = if s.params.bayerPattern = 0 ∨ s.params.bayerPattern = 3 then 1 else 0 := by
  have hparity (a : U32) : (if s.currentLineIndex &&& 1 ≠ a then false else true) = true ↔
      s.currentLineIndex.toNat % 2 = a.toNat := by
    rw [← toNat_and_one, BitVec.toNat_inj]
    simp
  rw [isNeededField, hparity]
  by_cases h3 : s.params.bayerPattern = 3
  · rw [if_pos h3, if_pos (.inr h3)]
    rfl
  · by_cases h0 : s.params.bayerPattern = 0
    · rw [if_neg h3, if_pos h0, if_pos (.inl h0)]
      rfl
    · rw [if_neg h3, if_neg h0, if_neg (not_or.mpr ⟨h0, h3⟩)]
      rfl

end Sys2Proof.Machine
end

section
/-! SUPPORT. The four headers on a state whose current block exists (46_line_decoder.md R162 to R168): the tail they share,
then each header as its fields, its range check and that tail. -/

namespace Sys2Proof.Machine

variable {s : State} {m : Bool} {n d : Nat} {r : Res State}

/-- What a header store leaves in the buffer. -/
theorem storesHeader_of_hdrWrite {b b' : BlockLine} {blk : Nat} {v : HdrVal} (hw : b.wf = true)
    (h : hdrWrite b blk v = .ok b') : storesHeader b b' blk v := by
  obtain ⟨hblocks, hfill, hsamples⟩ := hdrWrite_shape h
  exact ⟨hblocks, hfill, hsamples, hdrWrite_headerAt hw h⟩

/-- The operation answers the state after a header of `n` bits: the depth `d`, the mode `m`, and `d` recorded for the
current block in both current buffers. -/
def AnswersHeader (r : Res State) (n d : Nat) (m : Bool) (s : State) : Prop :=
  ∃ a bc, r = .ok (afterHeader n d m a bc s) ∧
    storesHeader s.lineA a s.currentBlockIndex (BitVec.ofNat 4 d) ∧
    storesHeader s.lineBC bc s.currentBlockIndex (BitVec.ofNat 4 d)

/-- The next state of a header as an instruction. -/
theorem AnswersHeader.finish (h : AnswersHeader r n d m s) :
    ∃ a bc, finish s r = .next { s with
        pos := s.pos + n, bitdepthDiff := d, decodingMode := m, lineA := a, lineBC := bc } ∧
      storesHeader s.lineA a s.currentBlockIndex (BitVec.ofNat 4 d) ∧
      storesHeader s.lineBC bc s.currentBlockIndex (BitVec.ofNat 4 d) := by
  obtain ⟨a, bc, rfl, hstored⟩ := h
  exact ⟨a, bc, rfl, hstored⟩

/-! ### The tail (R168) -/

theorem headerTail_ok {a bc : BlockLine} (hstream : s.pos + 1 ≤ s.streamLength)
    (ha : hdrWrite s.lineA s.currentBlockIndex (BitVec.ofNat 4 s.bitdepthDiff) = .ok a)
    (hbc : hdrWrite s.lineBC s.currentBlockIndex (BitVec.ofNat 4 s.bitdepthDiff) = .ok bc) :
    headerTail m s = .ok (afterHeader 1 s.bitdepthDiff m a bc s) :=
  headerTail_ok_iff.mpr ⟨hstream, a, bc, ha, hbc, rfl⟩

/-- The fields and the tail together are the header. -/
theorem afterHeader_atPos_withDiff (n d : Nat) (m : Bool) (a bc : BlockLine) (s : State) :
    afterHeader 1 d m a bc ((s.atPos (s.pos + n)).withDiff d) = afterHeader (n + 1) d m a bc s := by
  rfl

/-- The tail after `n` bits of fields that gave the depth `d`. -/
theorem headerTail_of_fits (h : s.currentBlockExists) (hstream : s.pos + n + 1 ≤ s.streamLength) :
    AnswersHeader (headerTail m ((s.atPos (s.pos + n)).withDiff d)) (n + 1) d m s := by
  obtain ⟨hwA, hwBC, hA, hBC⟩ := h
  have ha := hdrWrite_ok (BitVec.ofNat 4 d) hA
  have hbc := hdrWrite_ok (BitVec.ofNat 4 d) hBC
  refine ⟨_, _, ?_, storesHeader_of_hdrWrite hwA ha, storesHeader_of_hdrWrite hwBC hbc⟩
  rw [← afterHeader_atPos_withDiff]
  exact headerTail_ok hstream ha hbc

theorem headerTail_of_short (hstream : s.pos + 1 > s.streamLength) :
    headerTail m s = .error (.raised .unexpectedEndOfStream) := by
  rw [headerTail, consume_error hstream, error_bind]

theorem checkRange_ok {diff : Int} (h0 : 0 ≤ diff) (h15 : diff ≤ 15) (hreal : diff ≤ s.params.bitdepthReal.toInt) :
    checkRange diff s = .ok (s.withDiff diff.toNat) := checkRange_ok_iff.mpr ⟨⟨h0, h15, hreal⟩, rfl⟩

/-! ### HDR.L (R163) -/

theorem exec_hdrL (m : Bool) (s : State) : exec (.hdrL m) s = finish s (hdrL m s) := rfl

theorem hdrL_of_fits (h : s.currentBlockExists) (hstream : s.pos + 1 ≤ s.streamLength) :
    AnswersHeader (hdrL m s) 1 0 m s := headerTail_of_fits (n := 0) h hstream

/-! ### HDR.F (R164) -/

theorem exec_hdrF (d : BitVec 4) (m : Bool) (s : State) : exec (.hdrF d m) s = finish s (hdrF d m s) := rfl

theorem hdrF_of_fits {d : BitVec 4} (h : s.currentBlockExists) (hstream : s.pos + 5 ≤ s.streamLength)
    (hreal : (d.toNat : Int) ≤ s.params.bitdepthReal.toInt) : AnswersHeader (hdrF d m s) 5 d.toNat m s := by
  obtain ⟨a, bc, hok, hstored⟩ := headerTail_of_fits (n := 4) (d := d.toNat) (m := m) h hstream
  exact ⟨a, bc, hdrF_ok_iff.mpr ⟨by omega, hreal, hok⟩, hstored⟩

theorem hdrF_of_short {d : BitVec 4} (hstream : s.pos + 4 > s.streamLength) :
    hdrF d m s = .error (.raised .unexpectedEndOfStream) := by
  rw [hdrF, consume_error hstream, error_bind]

theorem hdrF_of_out_of_range {d : BitVec 4} (hstream : s.pos + 4 ≤ s.streamLength)
    (hreal : (d.toNat : Int) > s.params.bitdepthReal.toInt) :
    hdrF d m s = .error (.raised .bitdepthDiffOutOfRange) := by
  rw [hdrF, consume_ok hstream, ok_bind, checkRange_error (s := s.atPos (s.pos + 4)) (.inr (.inr hreal)), error_bind]

/-- The depth is in range, and the mode bit is missing. -/
theorem hdrF_of_no_mode {d : BitVec 4} (hstream : s.pos + 4 = s.streamLength)
    (hreal : (d.toNat : Int) ≤ s.params.bitdepthReal.toInt) :
    hdrF d m s = .error (.raised .unexpectedEndOfStream) := by
  have hd := d.isLt
  rw [hdrF, consume_ok hstream.le, ok_bind,
    checkRange_ok (s := s.atPos (s.pos + 4)) (by omega) (by omega) hreal, ok_bind]
  exact headerTail_of_short (Nat.lt_succ_of_le hstream.ge)

/-! ### HDR.K (R165) -/

theorem exec_hdrK (m : Bool) (s : State) : exec (.hdrK m) s = finish s (hdrK m s) := rfl

theorem hdrK_of_fits (h : s.currentBlockExists) (hstream : s.pos + 2 ≤ s.streamLength) :
    AnswersHeader (hdrK m s) 2 s.bitdepthDiff m s := by
  obtain ⟨a, bc, hok, hstored⟩ := headerTail_of_fits (n := 1) (d := s.bitdepthDiff) (m := m) h hstream
  exact ⟨a, bc, hdrK_ok_iff.mpr ⟨by omega, hok⟩, hstored⟩

/-- The first or the second bit is missing. -/
theorem hdrK_of_short (hstream : s.pos + 2 > s.streamLength) :
    hdrK m s = .error (.raised .unexpectedEndOfStream) := by
  rw [hdrK]
  by_cases hfirst : s.pos + 1 ≤ s.streamLength
  · rw [consume_ok hfirst, ok_bind]
    exact headerTail_of_short hstream
  · rw [consume_error (Nat.not_le.mp hfirst), error_bind]

/-! ### HDR.D (R166) -/

theorem exec_hdrD (code : BitVec 2) (m : Bool) (s : State) : exec (.hdrD code m) s = finish s (hdrD code m s) := rfl

/-- The table of the coded deltas (30_encoding.md R65). -/
theorem headerDelta_eq (code : BitVec 2) :
    headerDelta code = if code = 0 then -2 else if code = 1 then -1 else if code = 2 then 1 else 2 := by
  revert code
  decide

section
variable {code : BitVec 2} {diff : Int}

theorem hdrD_of_fits (h : s.currentBlockExists) (hdiff : diff = s.bitdepthDiff + headerDelta code)
    (hstream : s.pos + 4 ≤ s.streamLength) (h0 : 0 ≤ diff) (h15 : diff ≤ 15)
    (hreal : diff ≤ s.params.bitdepthReal.toInt) : AnswersHeader (hdrD code m s) 4 diff.toNat m s := by
  obtain ⟨a, bc, hok, hstored⟩ := headerTail_of_fits (n := 3) (d := diff.toNat) (m := m) h hstream
  subst hdiff
  exact ⟨a, bc, hdrD_ok_iff.mpr ⟨by omega, ⟨h0, h15, hreal⟩, hok⟩, hstored⟩

/-- Bit 0 or the delta is missing. -/
theorem hdrD_of_short (hstream : s.pos + 3 > s.streamLength) :
    hdrD code m s = .error (.raised .unexpectedEndOfStream) := by
  rw [hdrD]
  by_cases hfirst : s.pos + 1 ≤ s.streamLength
  · rw [consume_ok hfirst, ok_bind, consume_error (s := s.atPos (s.pos + 1)) hstream, error_bind]
  · rw [consume_error (Nat.not_le.mp hfirst), error_bind]

/-- With bit 0 and the delta read, the range check and the tail are left. -/
theorem hdrD_of_fields (hdiff : diff = s.bitdepthDiff + headerDelta code) (hstream : s.pos + 3 ≤ s.streamLength) :
    hdrD code m s = checkRange diff (s.atPos (s.pos + 3)) >>= headerTail m := by
  subst hdiff
  rw [hdrD, consume_ok (by omega), ok_bind, consume_ok (s := s.atPos (s.pos + 1)) hstream]
  rfl

theorem hdrD_of_out_of_range (hdiff : diff = s.bitdepthDiff + headerDelta code) (hstream : s.pos + 3 ≤ s.streamLength)
    (hrange : diff < 0 ∨ diff > 15 ∨ diff > s.params.bitdepthReal.toInt) :
    hdrD code m s = .error (.raised .bitdepthDiffOutOfRange) := by
  rw [hdrD_of_fields hdiff hstream, checkRange_error (s := s.atPos (s.pos + 3)) hrange, error_bind]

/-- The depth is in range, and the mode bit is missing. -/
theorem hdrD_of_no_mode (hdiff : diff = s.bitdepthDiff + headerDelta code) (hstream : s.pos + 3 = s.streamLength)
    (h0 : 0 ≤ diff) (h15 : diff ≤ 15) (hreal : diff ≤ s.params.bitdepthReal.toInt) :
    hdrD code m s = .error (.raised .unexpectedEndOfStream) := by
  rw [hdrD_of_fields hdiff hstream.le, checkRange_ok (s := s.atPos (s.pos + 3)) h0 h15 hreal, ok_bind]
  exact headerTail_of_short (Nat.lt_succ_of_le hstream.ge)

end

end Sys2Proof.Machine
end

section
/-! The statements of 46_line_decoder.md on the field predicates and the headers, settled. -/

namespace Sys2Proof.Machine

/-- Settles O20: the low bit of the line index is the parity of the line, and each pattern needs one parity. -/
theorem fieldPredicatesFollowTheTable : Obligations.FieldPredicatesFollowTheTable := by
  refine fun s => ⟨isUpperFieldLine_iff, isNeededField_iff.trans ?_⟩
  split <;> exact Iff.rfl

/-- Settles O21: the tail alone, with the depth 0. -/
theorem hdrLSetsDepthZeroAndMode : Obligations.HdrLSetsDepthZeroAndMode := by
  intro m s
  rw [exec_hdrL]
  refine ⟨fun h hstream => (hdrL_of_fits h hstream).finish, fun hstream => ?_⟩
  have hshort : hdrL m s = .error (.raised .unexpectedEndOfStream) := headerTail_of_short (s := s.withDiff 0) hstream
  rw [hshort]
  exact takesFault_finish s _

/-- Settles O22: the field, the range check and the tail, in their order. -/
theorem hdrFSetsDepthFromFourBits : Obligations.HdrFSetsDepthFromFourBits := by
  intro d m s
  rw [exec_hdrF]
  refine ⟨fun h hstream hreal => ?_, fun hstream => ?_, fun hstream hreal => ?_, fun hstream hreal => ?_⟩
  · have hanswer := (hdrF_of_fits (m := m) h hstream hreal).finish
    rwa [BitVec.ofNat_toNat, BitVec.setWidth_eq] at hanswer
  · rw [hdrF_of_short hstream]
    exact takesFault_finish s _
  · rw [hdrF_of_out_of_range hstream hreal]
    exact takesFault_finish s _
  · rw [hdrF_of_no_mode hstream hreal]
    exact takesFault_finish s _

/-- Settles O23: one bit and the tail, with the depth as it is. -/
theorem hdrKKeepsDepth : Obligations.HdrKKeepsDepth := by
  intro m s
  rw [exec_hdrK]
  refine ⟨fun h hstream => (hdrK_of_fits h hstream).finish, fun hstream => ?_⟩
  rw [hdrK_of_short hstream]
  exact takesFault_finish s _

/-- Settles O24: bit 0, the delta, the range check and the tail, in their order. -/
theorem hdrDAddsTheCodedDelta : Obligations.HdrDAddsTheCodedDelta := by
  intro code m s diff hdiff
  rw [← headerDelta_eq] at hdiff
  rw [exec_hdrD]
  refine ⟨fun h hstream h0 h15 hreal => (hdrD_of_fits h hdiff hstream h0 h15 hreal).finish, fun hstream => ?_,
    fun hstream hrange => ?_, fun hstream h0 h15 hreal => ?_⟩
  · rw [hdrD_of_short hstream]
    exact takesFault_finish s _
  · rw [hdrD_of_out_of_range hdiff hstream hrange]
    exact takesFault_finish s _
  · rw [hdrD_of_no_mode hdiff hstream h0 h15 hreal]
    exact takesFault_finish s _

end Sys2Proof.Machine
end

section
/-! SUPPORT. What an instruction that decodes or only answers leaves as it was: the registers that CONSTRUCT and
FINALIZE_LINE write between lines, and the host's side (46_line_decoder.md R172, R177, 10_state.md R19 to R21). -/

namespace Sys2Proof.Machine

variable {s t : State}

/-- `t` has the registers of `s` that nothing inside a line writes. -/
structure LineKept (s t : State) : Prop where
  st : t.st = s.st
  err : t.err = s.err
  params : t.params = s.params
  lineIndex : t.currentLineIndex = s.currentLineIndex
  noiseLevel : t.noiseLevel = s.noiseLevel
  noiseLevels : t.noiseLevels = s.noiseLevels
  prevA : t.lineAPrev = s.lineAPrev
  prevB : t.lineBPrev = s.lineBPrev
  prevC : t.lineCPrev = s.lineCPrev
  stream : t.stream = s.stream
  port : t.port = s.port
  seq : t.seq = s.seq
  freeCtr : t.freeCtr = s.freeCtr
  hookState : t.hookState = s.hookState

theorem LineKept.refl (s : State) : LineKept s s := by constructor <;> rfl

theorem LineKept.trans {u : State} (h : LineKept s u) (h' : LineKept u t) : LineKept s t where
  st := h'.st.trans h.st
  err := h'.err.trans h.err
  params := h'.params.trans h.params
  lineIndex := h'.lineIndex.trans h.lineIndex
  noiseLevel := h'.noiseLevel.trans h.noiseLevel
  noiseLevels := h'.noiseLevels.trans h.noiseLevels
  prevA := h'.prevA.trans h.prevA
  prevB := h'.prevB.trans h.prevB
  prevC := h'.prevC.trans h.prevC
  stream := h'.stream.trans h.stream
  port := h'.port.trans h.port
  seq := h'.seq.trans h.seq
  freeCtr := h'.freeCtr.trans h.freeCtr
  hookState := h'.hookState.trans h.hookState

/-- A fault is the same from every state of a line. -/
theorem LineKept.raise_eq (h : LineKept s t) (e : ErrCode) : raise e t = raise e s :=
  raise_congr e h.st h.err h.stream h.port h.hookState h.freeCtr

theorem LineKept.finish_error_eq (h : LineKept s t) (e : Stop) : finish t (.error e) = finish s (.error e) := by
  cases e with
  | raised e => exact congrArg Host.Outcome.next (h.raise_eq e)
  | fault f => rfl
  | refused why => rfl

theorem lineKept_atPos (s : State) (p : Nat) : LineKept s (s.atPos p) := by constructor <;> rfl

theorem lineKept_withDiff (s : State) (d : Nat) : LineKept s (s.withDiff d) := by constructor <;> rfl

theorem lineKept_withIndex (s : State) (n : Nat) : LineKept s (s.withIndex n) := by constructor <;> rfl

theorem lineKept_withResult (s : State) (r : Result) : LineKept s (s.withResult r) := by constructor <;> rfl

theorem lineKept_enterBlock (s : State) : LineKept s (enterBlock s) := by constructor <;> rfl

theorem lineKept_afterHeader (n d : Nat) (m : Bool) (a bc : BlockLine) (s : State) :
    LineKept s (afterHeader n d m a bc s) := by constructor <;> rfl

theorem lineKept_afterPair (n : Nat) (ca cb : Ctx) (q : Bool) (a bc : BlockLine) (s : State) :
    LineKept s (afterPair n ca cb q a bc s) := by constructor <;> rfl

theorem lineKept_of_headerTail {m : Bool} (h : headerTail m s = .ok t) : LineKept s t := by
  obtain ⟨a, bc, rfl, -⟩ := headerTail_eq h
  exact lineKept_afterHeader _ _ _ _ _ s

theorem lineKept_of_hdrL {m : Bool} (h : hdrL m s = .ok t) : LineKept s t :=
  (lineKept_withDiff s 0).trans (lineKept_of_headerTail h)

theorem lineKept_of_hdrF {d : BitVec 4} {m : Bool} (h : hdrF d m s = .ok t) : LineKept s t := by
  obtain ⟨-, -, htail⟩ := hdrF_ok_iff.mp h
  exact (lineKept_atPos s _).trans ((lineKept_withDiff _ _).trans (lineKept_of_headerTail htail))

theorem lineKept_of_hdrK {m : Bool} (h : hdrK m s = .ok t) : LineKept s t := by
  obtain ⟨-, htail⟩ := hdrK_ok_iff.mp h
  exact (lineKept_atPos s _).trans (lineKept_of_headerTail htail)

theorem lineKept_of_hdrD {code : BitVec 2} {m : Bool} (h : hdrD code m s = .ok t) : LineKept s t := by
  obtain ⟨-, -, htail⟩ := hdrD_ok_iff.mp h
  exact (lineKept_atPos s _).trans ((lineKept_withDiff _ _).trans (lineKept_of_headerTail htail))

theorem lineKept_of_readHeader (h : readHeader s = .ok t) : LineKept s t := by
  obtain ⟨n, d, m, a, bc, rfl, -⟩ := readHeader_eq h
  exact lineKept_afterHeader n d m a bc s

theorem lineKept_of_vlpair {ca cb : Cls} {lsa lsb : Nat} (h : vlpair ca lsa cb lsb s = .ok t) : LineKept s t := by
  obtain ⟨va, vb, q, pa, pb, a, bc, rfl, -⟩ := vlpair_eq h
  exact lineKept_afterPair _ _ _ _ _ _ s

theorem lineKept_of_rawpair {v1 v2 : Nat} (h : rawpair v1 v2 s = .ok t) : LineKept s t := by
  obtain ⟨va, vb, q, a, bc, rfl, -⟩ := rawpair_eq h
  exact lineKept_afterPair _ _ _ _ _ _ s

theorem lineKept_of_nextPair (h : nextPair s = .ok t) : LineKept s t := by
  obtain ⟨n, ca, cb, q, pa, pb, a, bc, rfl, -⟩ := nextPair_eq h
  exact lineKept_afterPair n ca cb q a bc s

theorem lineKept_of_pad (h : pad s = .ok t) : LineKept s t := by
  obtain ⟨-, rfl⟩ := alignTo_ok_iff.mp h
  exact lineKept_atPos s _

theorem lineKept_of_readNext (h : readNext s = .ok t) : LineKept s t := by
  obtain ⟨hst, herr, hparams, hline, -, -, hlevel, hlevels, hA, hB, hC, hstream, hport, hseq, hfree, hhooks⟩ :=
    readBlock_frame (readNext_ok_iff.mp h).2
  exact ⟨hst, herr, hparams, hline, hlevel, hlevels, hA, hB, hC, hstream, hport, hseq, hfree, hhooks⟩

theorem lineKept_of_readLine (h : readLine s = .ok t) : LineKept s t := by
  obtain ⟨u, hu, rfl⟩ := readLine_ok h
  have hsu : LineKept s u :=
    readLineLoop_keeps (P := LineKept s) (fun _ _ hs hn => hs.trans (lineKept_of_readNext hn)) _ (.refl s) hu
  exact hsu.trans (lineKept_withResult u _)

theorem lineKept_of_returnWords {b : BlockLine} (h : returnWords b s = .ok t) : LineKept s t := by
  obtain ⟨-, rfl⟩ := returnWords_ok_iff.mp h
  exact lineKept_withResult s _

theorem lineKept_of_returnCodeword {c : Cls} (h : returnCodeword c s = .next t) : LineKept s t := by
  cases h
  exact lineKept_withResult s _

/-- Every instruction but CONSTRUCT and FINALIZE_LINE keeps them when it does not fault. -/
theorem lineKept_of_exec {i : Instr} (h : exec i s = .next t) (ht : t.st ≠ .poisoned)
    (hc : ∀ P, i ≠ .construct P) (hf : i ≠ .finalizeLine) : LineKept s t := by
  cases i with
  | hdrL m => exact lineKept_of_hdrL (ok_of_finish h ht)
  | hdrF d m => exact lineKept_of_hdrF (ok_of_finish h ht)
  | hdrK m => exact lineKept_of_hdrK (ok_of_finish h ht)
  | hdrD code m => exact lineKept_of_hdrD (ok_of_finish h ht)
  | pfx0 | pfx1 | pfx2 | pfx3 | pfx4 | pfx5 | pfx6 | pfx7 | pfx8 | pfx9 | pfx10 | pfx11 | pfx12 =>
    exact lineKept_of_returnCodeword h
  | vlpair ca lsa cb lsb => exact lineKept_of_vlpair (ok_of_finish h ht)
  | rawpair v1 v2 => exact lineKept_of_rawpair (ok_of_finish h ht)
  | pad => exact lineKept_of_pad (ok_of_finish h ht)
  | construct P => exact absurd rfl (hc P)
  | readNext => exact lineKept_of_readNext (ok_of_command h ht).2
  | readLine => exact lineKept_of_readLine (ok_of_command h ht).2
  | finalizeLine => exact absurd rfl hf
  | lineA | lineB => exact lineKept_of_returnWords (ok_of_command h ht).2
  | reserved odd => cases (ok_of_command h ht).2

end Sys2Proof.Machine
end

section
/-! SUPPORT. FINALIZE_LINE in each field (46_line_decoder.md R172, R173), and the accessors (R174, R175). -/

namespace Sys2Proof.Machine

variable {s : State}

/-- An answer of the buffer's own shape and form is the buffer. -/
theorem settleAs_eq_self {shape b : BlockLine} (hw : b.wf = true) (hblocks : b.blocks = shape.blocks)
    (hfill : b.fill = shape.fill) : settleAs shape b = b := by
  obtain ⟨blocks, fill, samples, headers⟩ := shape
  cases hblocks
  cases hfill
  obtain ⟨hsamples, hheaders⟩ := (wf_iff b).mp hw
  have hs : tabulate b.fill b.sampleAt 0 b.size = b.samples := tabulate_readCell hsamples
  have hh : tabulate (0 : HdrVal) b.headerAt 0 b.blocks = b.headers := tabulate_readCell hheaders
  change BlockLine.mk b.blocks b.fill (tabulate b.fill b.sampleAt 0 b.size) (tabulate 0 b.headerAt 0 b.blocks) = b
  rw [hs, hh]

theorem command_of_allowed {allowed : Bool} {body : Res State} (hs : s.st = .active) (ha : allowed = true) :
    command s allowed body = finish s body := by
  rw [ha, command_allowed (by rw [hs]; decide)]

/-- On a complete line below the last index FINALIZE_LINE takes its five steps. -/
theorem exec_finalizeLine (hs : s.st = .active) (hblk : s.currentBlockIndex = s.params.blocks)
    (hline : s.currentLineIndex.toNat < 2 ^ 32 - 1) :
    exec .finalizeLine s = .next ((restartLine (rollUpNoise (runHooks (rotateLines s)))).withResult .done) := by
  have hlast : s.currentLineIndex ≠ BitVec.allOnes 32 := by
    intro h
    rw [h] at hline
    exact absurd hline (by decide)
  have hallowed : finalizeAllowed s = true := by simp [finalizeAllowed, lineComplete, hs, hblk]
  have hok := finalizeLine_ok_iff.mpr ⟨hlast, rfl⟩
  change command s (finalizeAllowed s) (finalizeLine s) = _
  rw [command_of_allowed hs hallowed, hok, finish_ok]

/-- The copies and the post-processing of an upper-field line: `line_c_prev` is left to the other field. -/
theorem postProcess_of_upper (h : isUpperFieldLine s = true) :
    let ppa := Config.postProcessA s.lineA (isNeededField s) s.noiseLevel s.hookState
    let ppb := Config.postProcessB s.lineBC s.noiseLevel ppa.2
    runPostProcessB (runPostProcessA (rotateLines s)) =
      s.withPrevLines (settleAs s.lineA ppa.1) (settleAs s.lineBC ppb.1) s.lineCPrev ppb.2 := by
  have hcopies : rotateLines s = { s with lineAPrev := s.lineA, lineBPrev := s.lineBC } := if_pos h
  rw [hcopies]
  exact if_pos h

/-- The copies and the post-processing of a lower-field line: `line_b_prev` is left to the other field. -/
theorem postProcess_of_lower (h : ¬ isUpperFieldLine s = true) :
    let ppa := Config.postProcessA s.lineA (isNeededField s) s.noiseLevel s.hookState
    let ppb := Config.postProcessB s.lineBC s.noiseLevel ppa.2
    runPostProcessB (runPostProcessA (rotateLines s)) =
      s.withPrevLines (settleAs s.lineA ppa.1) s.lineBPrev (settleAs s.lineBC ppb.1) ppb.2 := by
  have hcopies : rotateLines s = { s with lineAPrev := s.lineA, lineCPrev := s.lineBC } := if_neg h
  rw [hcopies]
  exact if_neg h

/-- `TRUNC` on the three previous lines in their order. -/
theorem truncate_withPrevLines (s : State) (a b c : BlockLine) (hooks : Nat) :
    let ta := Config.truncate a s.params.bitdepthReal Config.truncateShift hooks
    let tb := Config.truncate b s.params.bitdepthReal Config.truncateShift ta.2
    let tc := Config.truncate c s.params.bitdepthReal Config.truncateShift tb.2
    runTruncateC (runTruncateB (runTruncateA (s.withPrevLines a b c hooks))) =
      s.withPrevLines (settleAs a ta.1) (settleAs b tb.1) (settleAs c tc.1) tc.2 := by
  cases s
  rfl

theorem add_one_eq_ofNat (x : U32) : x + 1 = BitVec.ofNat 32 (x.toNat + 1) := by
  bv_omega

theorem exec_lineA (hs : s.st = .active) : exec .lineA s = finish s (returnWords s.lineA s) :=
  command_of_allowed hs (beq_iff_eq.mpr hs)

theorem exec_lineB (hs : s.st = .active) : exec .lineB s = finish s (returnWords s.lineBC s) :=
  command_of_allowed hs (beq_iff_eq.mpr hs)

/-- The words of a buffer that has them all: word `n` is the sample of block `n / 16`, position `n mod 16`. -/
theorem returnWords_of_fits {b : BlockLine} (h : s.params.valuesPerLine ≤ 16 * b.blocks) :
    ∃ ws, finish s (returnWords b s) = .next { s with result := .words ws } ∧ ws.length = s.params.valuesPerLine ∧
      ∀ n v, n < s.params.valuesPerLine → (ws[n]? = some v ↔ memRead b (n / 16) (n % 16) = .ok v) := by
  have hsize : s.params.valuesPerLine ≤ b.size := by
    rw [BlockLine.size, Config.blockSize]
    omega
  have hok := returnWords_ok_iff.mpr ⟨hsize, rfl⟩
  refine ⟨(List.range s.params.valuesPerLine).map b.sampleAt, ?_, ?_, fun n v hn => ?_⟩
  · rw [hok]
    rfl
  · rw [List.length_map, List.length_range]
  · have hkey : sampleKey (n / 16) (n % 16) = n := Nat.div_add_mod' n 16
    have hplace : n / 16 < b.blocks ∧ n % 16 < Config.blockSize := ⟨by omega, Nat.mod_lt n (by decide)⟩
    rw [memRead_ok_iff, hkey, and_iff_right hplace, List.getElem?_map, List.getElem?_range hn, Option.map_some,
      Option.some_inj, eq_comm]

end Sys2Proof.Machine
end

section
/-! The statements of 46_line_decoder.md on the end of a line, settled. -/

namespace Sys2Proof.Machine

/-- Settles O35: the copies and the post-processing of each field, then the truncations, the roll-up and the restart. -/
theorem finalizeLineRotatesHooksAndRestarts : Obligations.FinalizeLineRotatesHooksAndRestarts := by
  intro s hs hblk hline
  rw [exec_finalizeLine hs hblk hline, ← add_one_eq_ofNat, runHooks]
  intro upper w ppa ppb ta tb tc est
  by_cases hfield : isUpperFieldLine s = true
  · have hupper : upper = true := decide_eq_true (isUpperFieldLine_iff.mp hfield)
    clear_value upper
    subst hupper
    rw [postProcess_of_upper hfield, truncate_withPrevLines]
    rfl
  · have hupper : upper = false := decide_eq_false (mt isUpperFieldLine_iff.mpr hfield)
    clear_value upper
    subst hupper
    rw [postProcess_of_lower hfield, truncate_withPrevLines]
    rfl

/-- Settles O36: the laws of a settled buffer, and `settleAs_eq_self`. -/
theorem hookResultsStandInTheirBuffers : Obligations.HookResultsStandInTheirBuffers := by
  intro shape b
  refine ⟨settleAs_wf shape b, rfl, rfl, fun n hn => ?_, fun blk hblk => ?_, settleAs_eq_self⟩
  · rw [settleAs_sampleAt]
    exact if_pos hn
  · rw [settleAs_headerAt]
    exact if_pos hblk

/-- Settles O38: each accessor returns the words of its buffer. -/
theorem accessorsReturnTheLine : Obligations.AccessorsReturnTheLine := by
  intro s hs
  rw [exec_lineA hs, exec_lineB hs]
  exact ⟨returnWords_of_fits, returnWords_of_fits⟩

/-- Settles O45: they are among the registers that nothing inside a line writes. -/
theorem previousLinesAndNoiseLevelHaveTheirWriters : Obligations.PreviousLinesAndNoiseLevelHaveTheirWriters := by
  intro i s t h ht hc hf
  have hkept := lineKept_of_exec h ht hc hf
  exact ⟨hkept.prevA, hkept.prevB, hkept.prevC, hkept.noiseLevel, hkept.noiseLevels, hkept.hookState⟩

end Sys2Proof.Machine
end

section
/-! SUPPORT. READ_LINE after its first READ_NEXT (46_line_decoder.md R171). -/

namespace Sys2Proof.Machine

variable {s t : State}

theorem readAllowed_of_active (hs : s.st = .active) (hb : s.currentBlockIndex < s.params.blocks) :
    readAllowed s = true := readAllowed_iff.mpr ⟨hs, hb⟩

theorem exec_readNext (hs : s.st = .active) (hb : s.currentBlockIndex < s.params.blocks) :
    exec .readNext s = finish s (readNext s) := command_of_allowed hs (readAllowed_of_active hs hb)

theorem exec_readLine (hs : s.st = .active) (hb : s.currentBlockIndex < s.params.blocks) :
    exec .readLine s = finish s (readLine s) := command_of_allowed hs (readAllowed_of_active hs hb)

/-- READ_NEXT counts one block. -/
theorem readNext_block (h : readNext s = .ok t) : t.currentBlockIndex = s.currentBlockIndex + 1 := by
  obtain ⟨-, -, -, -, hblk, -⟩ := readBlock_frame (readNext_ok_iff.mp h).2
  exact hblk

/-- The repetition stops where READ_NEXT stops. -/
theorem readLine_of_error {e : Stop} (h : readNext s = .error e) : readLine s = .error e := by
  rw [readLine]
  cases s.params.blocks - s.currentBlockIndex - 1 with
  | zero => rw [readLineLoop, h, error_bind]
  | succ n => rw [readLineLoop, h, error_bind, error_bind]

theorem readLine_of_complete (h : readNext s = .ok t) (hc : lineComplete t = true) :
    readLine s = .ok (t.withResult .done) := by
  rw [readLine]
  cases s.params.blocks - s.currentBlockIndex - 1 with
  | zero => rw [readLineLoop, h, ok_bind]
  | succ n => rw [readLineLoop, h, ok_bind, if_pos hc, ok_bind]

theorem readLine_of_incomplete (h : readNext s = .ok t) (hb : t.currentBlockIndex < t.params.blocks) :
    readLine s = readLine t := by
  have hc : ¬ lineComplete t = true := by
    rw [lineComplete, beq_iff_eq]
    omega
  have hrounds : s.params.blocks - s.currentBlockIndex - 1 = t.params.blocks - t.currentBlockIndex - 1 + 1 := by
    rw [readNext_block h, (lineKept_of_readNext h).params] at *
    omega
  rw [readLine, hrounds, readLineLoop, h, ok_bind, if_neg hc, readLine]

end Sys2Proof.Machine
end

section
/-! SUPPORT. The field `seq` and the operations of a block: none of them reads it or writes it, so an element does the
same wherever the sequencer stands (notes/assumptions/1.md). -/

namespace Sys2Proof.Machine

/-- The operation neither reads nor writes `seq`. -/
def SeqBlind (f : State → Res State) : Prop := ∀ s q, f (s.withSeq q) = (f s).map (·.withSeq q)

section Combinators

variable {α : Type} {f g : State → Res State}

theorem SeqBlind.bind (hf : SeqBlind f) (hg : SeqBlind g) : SeqBlind (fun s => f s >>= g) := by
  intro s q
  change f (s.withSeq q) >>= g = (f s >>= g).map (·.withSeq q)
  rw [hf]
  cases f s with
  | ok t => exact hg t q
  | error e => rfl

/-- A value is read first, which `seq` has no part in. -/
theorem SeqBlind.read {x : State → Res α} {k : α → State → Res State} (hx : ∀ s q, x (s.withSeq q) = x s)
    (hk : ∀ a, SeqBlind (k a)) : SeqBlind (fun s => x s >>= fun a => k a s) := by
  intro s q
  change (x (s.withSeq q) >>= fun a => k a (s.withSeq q)) = (x s >>= fun a => k a s).map (·.withSeq q)
  rw [hx]
  cases x s with
  | ok a => exact hk a s q
  | error e => rfl

theorem SeqBlind.ite {c : State → Prop} {_ : DecidablePred c} (hc : ∀ s q, c (s.withSeq q) ↔ c s) (hf : SeqBlind f)
    (hg : SeqBlind g) : SeqBlind (fun s => if c s then f s else g s) := by
  intro s q
  by_cases h : c s
  · simpa only [if_pos h, if_pos ((hc s q).mpr h)] using hf s q
  · simpa only [if_neg h, if_neg (mt (hc s q).mp h)] using hg s q

theorem seqBlind_error (e : Stop) : SeqBlind (fun _ => .error e) := fun _ _ => rfl

end Combinators

/-! ### Headers -/

theorem consume_seqBlind (n : Nat) : SeqBlind (consume n) :=
  .ite (fun _ _ => Iff.rfl) (seqBlind_error _) (fun _ _ => rfl)

theorem headerTail_seqBlind (m : Bool) : SeqBlind (headerTail m) :=
  (consume_seqBlind 1).bind <| .read (fun _ _ => rfl) fun _ => .read (fun _ _ => rfl) fun _ _ _ => rfl

theorem hdrL_seqBlind (m : Bool) : SeqBlind (hdrL m) := fun s => headerTail_seqBlind m (s.withDiff 0)

theorem checkRange_seqBlind (diff : Int) : SeqBlind (checkRange diff) :=
  .ite (fun _ _ => Iff.rfl) (seqBlind_error _) (fun _ _ => rfl)

theorem hdrF_seqBlind (d : BitVec 4) (m : Bool) : SeqBlind (hdrF d m) :=
  (consume_seqBlind 4).bind <| (checkRange_seqBlind d.toNat).bind (headerTail_seqBlind m)

theorem hdrK_seqBlind (m : Bool) : SeqBlind (hdrK m) := (consume_seqBlind 1).bind (headerTail_seqBlind m)

theorem hdrD_seqBlind (code : BitVec 2) (m : Bool) : SeqBlind (hdrD code m) :=
  (consume_seqBlind 1).bind <| (consume_seqBlind 2).bind <|
    SeqBlind.bind (fun s => checkRange_seqBlind (s.bitdepthDiff + headerDelta code) s) (headerTail_seqBlind m)

/-- The operation of a decoded header. -/
def runHeader : Header → State → Res State
  | .L m => hdrL m
  | .F d m => hdrF d m
  | .K m => hdrK m
  | .D code m => hdrD code m

theorem runHeader_seqBlind (hdr : Header) : SeqBlind (runHeader hdr) := by
  cases hdr with
  | L m => exact hdrL_seqBlind m
  | F d m => exact hdrF_seqBlind d m
  | K m => exact hdrK_seqBlind m
  | D code m => exact hdrD_seqBlind code m

/-- The header that stands at `pos` (46_line_decoder.md R162). -/
def headerAhead (s : State) : Header :=
  decodeHeader s.params.lossless (s.readValuesCount == 0) (peek Config.peekBits s)

theorem readHeader_eq_runHeader (s : State) : readHeader s = runHeader (headerAhead s) s := by
  rw [readHeader, headerAhead]
  cases decodeHeader s.params.lossless (s.readValuesCount == 0) (peek Config.peekBits s) <;> rfl

theorem exec_headerInstr (hdr : Header) (s : State) : exec (headerInstr hdr) s = finish s (runHeader hdr s) := by
  cases hdr <;> rfl

theorem readHeader_seqBlind : SeqBlind readHeader := by
  intro s q
  rw [readHeader_eq_runHeader, readHeader_eq_runHeader]
  exact runHeader_seqBlind (headerAhead s) s q

/-! ### Pairs and padding -/

theorem loadOld_seqBlind : SeqBlind loadOld :=
  .ite (fun _ _ => Iff.rfl) (.read (fun _ _ => rfl) fun _ => .read (fun _ _ => rfl) fun _ _ _ => rfl) (fun _ _ => rfl)

theorem storePair_seqBlind (pa pb : Sample) : SeqBlind (storePair pa pb) :=
  .read (fun _ _ => rfl) fun _ => .read (fun _ _ => rfl) fun _ _ _ => rfl

theorem noiseTick_withSeq (s : State) (q : Seq) : noiseTick (s.withSeq q) = (noiseTick s).withSeq q := by
  rw [noiseTick_eq, noiseTick_eq]
  rfl

theorem consumeWindow_seqBlind (ca cb : Cls) : SeqBlind (fun s => consumeWindow (vlLength ca cb s) s) :=
  .ite (fun _ _ => Iff.rfl) (seqBlind_error _) fun s => consume_seqBlind (vlLength ca cb s) s

/-- The end of a pair: the noise tick, the shift and the store, of samples that `seq` has no part in. -/
theorem tickShiftStore_seqBlind (pa pb : Sample) : SeqBlind (fun s => storePair pa pb (shiftBoth (noiseTick s))) := by
  intro s q
  change storePair pa pb (shiftBoth (noiseTick (s.withSeq q))) = _
  rw [noiseTick_withSeq]
  exact storePair_seqBlind pa pb (shiftBoth (noiseTick s)) q

theorem vlpair_seqBlind (ca : Cls) (lsa : Nat) (cb : Cls) (lsb : Nat) : SeqBlind (vlpair ca lsa cb lsb) := by
  refine loadOld_seqBlind.bind <| (consumeWindow_seqBlind ca cb).bind fun s q => ?_
  simp only [noiseTick_ctxA, noiseTick_ctxB]
  exact tickShiftStore_seqBlind _ _ (vlSamples ca lsa cb lsb s) q

theorem rawpair_seqBlind (v1 v2 : Nat) : SeqBlind (rawpair v1 v2) := by
  refine loadOld_seqBlind.bind <| SeqBlind.bind (fun s => consume_seqBlind s.bp.f s) <|
    SeqBlind.bind (fun s => consume_seqBlind s.bp.f s) fun s q => ?_
  have hend := (tickShiftStore_seqBlind (sampleOf (v1 <<< s.bp.a)) (sampleOf (v2 <<< s.bp.a))).bind
    (g := fun t => .ok (t.withCtx t.ctxA (setNew0 t.ctxB s.ctxB.lastNew.w0))) (fun _ _ => rfl)
  exact hend (s.withCtx _ _) q

theorem nextPair_raw {s : State} (h : s.decodingMode = true) :
    nextPair s = rawpair (decodeRawpair s.bp.f (peek Config.peekBits s)).1
      (decodeRawpair s.bp.f (peek Config.peekBits s)).2 s := if_pos h

/-- The VL pair that stands at `pos` (30_encoding.md R67). -/
def vlAhead (s : State) : VlFields :=
  decodeVlpair (lsbK s.ctxA.g) (lsbK s.ctxB.g) s.bp.f (peek Config.peekBits s)

theorem nextPair_vl {s : State} (h : s.decodingMode = false) :
    nextPair s = vlpair (vlAhead s).ca (vlAhead s).lsa (vlAhead s).cb (vlAhead s).lsb s :=
  if_neg (by rw [h]; decide)

theorem nextPair_seqBlind : SeqBlind nextPair := by
  intro s q
  cases hm : s.decodingMode with
  | true =>
    rw [nextPair_raw hm, nextPair_raw (s := s.withSeq q) hm]
    exact rawpair_seqBlind _ _ s q
  | false =>
    rw [nextPair_vl hm, nextPair_vl (s := s.withSeq q) hm]
    exact vlpair_seqBlind _ _ _ _ s q

theorem pad_seqBlind : SeqBlind pad := .ite (fun _ _ => Iff.rfl) (seqBlind_error _) (fun _ _ => rfl)

end Sys2Proof.Machine
end

section
/-! SUPPORT. A block element by element (10_state.md R14, 46_line_decoder.md R169; notes/assumptions/1.md): the step at
each element is the element's operation and the sequencer, and the run of them is the body of READ_NEXT. -/

namespace Sys2Proof.Machine

variable {s u : State}

/-! ### The step at each element -/

theorem step_of_header (h : s.seq = .header) : step s = afterElement (finish s (readHeader s)) := by
  have hd : decode (fetchCtx s) (.bits (upcoming s)) = .ok (headerInstr (headerAhead s)) := by
    rw [fetchCtx_header h]
    rfl
  rw [step_element (by rw [h]; decide) hd, exec_headerInstr, readHeader_eq_runHeader]

theorem step_of_pair (h : s.seq = .pair) : step s = afterElement (finish s (nextPair s)) := by
  have hseq : s.seq ≠ .command := by rw [h]; decide
  cases hm : s.decodingMode with
  | true =>
    rw [step_element hseq (by rw [fetchCtx_rawpair h hm]; rfl), exec_rawpair, nextPair_raw hm]
    rfl
  | false =>
    have hd : decode (fetchCtx s) (.bits (upcoming s)) = .ok (vlInstr (vlAhead s)) := by
      rw [fetchCtx_vlpair h hm]
      rfl
    rw [step_element hseq hd, vlInstr, exec_vlpair, nextPair_vl hm]

theorem step_of_pad (h : s.seq = .pad) : step s = afterElement (finish s (pad s)) := by
  have hd : decode (fetchCtx s) (.bits (upcoming s)) = .ok .pad := by
    rw [fetchCtx_pad h]
    rfl
  rw [step_element (by rw [h]; decide) hd, exec_pad]

/-! ### The run -/

theorem runElements_of_command (h : s.seq = .command) (n : Nat) : runElements n s = .next s := by
  cases n with
  | zero => rfl
  | succ n => exact if_pos h

/-- A fault ends the transaction, so the run ends with it. -/
theorem runElements_of_stop {n : Nat} {e : Stop} (hseq : s.seq ≠ .command)
    (hstep : step s = afterElement (finish s (.error e))) : runElements (n + 1) s = finish s (.error e) := by
  rw [runElements, if_neg hseq, hstep]
  cases e with
  | raised e => exact runElements_of_command (raise_seq e) n
  | fault f => rfl
  | refused why => rfl

theorem runElements_of_ok {n : Nat} {v : State} (hseq : s.seq ≠ .command)
    (hstep : step s = afterElement (finish s (.ok v))) : runElements (n + 1) s = runElements n (advance v) := by
  rw [runElements, if_neg hseq, hstep]
  rfl

/-- One element of a transaction that began in `s`: when the rest of the run is `g`, the element and the rest are `f` and
then `g`. A fault is the one `s` takes. -/
theorem runElements_element {f g : State → Res State} {q : Seq} {n : Nat} (hf : SeqBlind f) (hq : q ≠ .command)
    (hstep : ∀ t, t.seq = q → step t = afterElement (finish t (f t))) (hk : LineKept s u)
    (hrest : ∀ v, f u = .ok v → runElements n (advance (v.withSeq q)) = finish s (g v)) :
    runElements (n + 1) (u.withSeq q) = finish s (f u >>= g) := by
  have helem := hstep (u.withSeq q) rfl
  rw [hf] at helem
  cases hu : f u with
  | ok v =>
    rw [hu] at helem
    rw [runElements_of_ok hq helem]
    exact hrest v hu
  | error e =>
    rw [hu] at helem
    rw [runElements_of_stop hq helem, error_bind, ← hk.finish_error_eq e]
    cases e <;> rfl

theorem withSeq_of_seq {q : Seq} (h : s.seq = q) : s.withSeq q = s := by
  subst h
  rfl

theorem runElements_endTransaction (h : s.seq = .command) (n : Nat) :
    runElements n (endTransaction s) = .next (returnComplete s) := by
  rw [runElements_of_command rfl, endTransaction, withSeq_of_seq (s := returnComplete s) h]

/-- What READ_NEXT does after the block body: the block is counted, the padding follows where it is due, and the boolean
is returned. -/
def closeBlock (s : State) : Res State := do
  let s ← padLine (leaveBlock s)
  .ok (returnComplete s)

theorem readBlock_eq_bind (s : State) :
    readBlock s = readHeader s >>= fun u => blockBody Config.blockSize (enterBlock u) >>= closeBlock := rfl

theorem blockBody_of_over (h : morePairs s = false) (n : Nat) : blockBody n s = .ok s := by
  cases n with
  | zero => rfl
  | succ n => exact if_neg (by rw [h]; decide)

theorem blockBody_of_more (h : morePairs s = true) (n : Nat) :
    blockBody (n + 1) s = nextPair s >>= fun v => blockBody n (v.withIndex (v.i + 1)) := if_pos h

/-- The end of the block, with its padding where it is due. -/
theorem runElements_closeBlock (hs : s.seq = .command) (hk : LineKept s u) (hover : morePairs u = false) (n : Nat) :
    runElements (n + 1) (continueBlock u) = finish s (closeBlock u) := by
  have hleave : LineKept s (leaveBlock u) := { hk with }
  rw [continueBlock, if_neg (by rw [hover]; decide), closeBlock, padLine]
  cases hpad : padDue (leaveBlock u) with
  | false =>
    rw [if_neg (by decide), if_neg (by decide), ok_bind, finish_ok]
    exact runElements_endTransaction (hleave.seq.trans hs) _
  | true =>
    rw [if_pos rfl, if_pos rfl]
    refine runElements_element pad_seqBlind nofun (fun _ => step_of_pad) hleave fun v hv => ?_
    exact runElements_endTransaction ((hleave.trans (lineKept_of_pad hv)).seq.trans hs) n

/-- The pairs of the block from `i` on, one element for each round of the block body. -/
theorem runElements_continueBlock {n : Nat} (hs : s.seq = .command) (hk : LineKept s u)
    (hn : Config.blockSize ≤ u.i + n) :
    runElements (n + 1) (continueBlock u) = finish s (blockBody n u >>= closeBlock) := by
  induction n generalizing u with
  | zero =>
    have hover : morePairs u = false := by
      simp only [morePairs, Bool.and_eq_false_iff, decide_eq_false_iff_not]
      omega
    exact runElements_closeBlock hs hk hover 0
  | succ n ih =>
    cases hm : morePairs u with
    | false =>
      rw [blockBody_of_over hm, ok_bind]
      exact runElements_closeBlock hs hk hm _
    | true =>
      rw [blockBody_of_more hm, continueBlock, if_pos hm, bind_assoc]
      refine runElements_element nextPair_seqBlind nofun (fun _ => step_of_pair) hk fun v hv => ?_
      have hi : v.i = u.i := by
        obtain ⟨k, ca, cb, q, pa, pb, a, bc, rfl, -⟩ := nextPair_eq hv
        rfl
      have hround : LineKept s (v.withIndex (v.i + 1)) :=
        (hk.trans (lineKept_of_nextPair hv)).trans (lineKept_withIndex v _)
      change runElements (n + 1) (continueBlock (v.withIndex (v.i + 1))) = _
      exact ih hround (by rw [withIndex_i, hi]; omega)

/-- The run from the block's header is the body of READ_NEXT: the header, at most 16 pairs and the padding. -/
theorem runElements_readBlock (hs : s.seq = .command) :
    runElements 18 (s.withSeq .header) = finish s (readBlock s) := by
  rw [readBlock_eq_bind]
  refine runElements_element readHeader_seqBlind nofun (fun _ => step_of_header) (.refl s) fun v hv => ?_
  exact runElements_continueBlock hs ((lineKept_of_readHeader hv).trans (lineKept_enterBlock v)) (Nat.le_add_left _ _)

end Sys2Proof.Machine
end

section
/-! The statements of 46_line_decoder.md on READ_NEXT and READ_LINE as repetitions, settled. -/

namespace Sys2Proof.Machine

/-- Settles O32: the run of the elements is the body of READ_NEXT, which is allowed. -/
theorem readNextIsItsElementsInOrder : Obligations.ReadNextIsItsElementsInOrder := by
  intro s hs hseq hb
  have hbody : readNext s = readBlock s := if_pos (readAllowed_of_active hs hb)
  rw [exec_readNext hs hb, hbody]
  exact runElements_readBlock hseq

/-- Settles O33: a first READ_NEXT that faults, that completes the line, and that leaves blocks to read. -/
theorem readLineIsReadNextRepeated : Obligations.ReadLineIsReadNextRepeated := by
  intro s t hs hb h
  have hnotPoisoned : s.st ≠ .poisoned := by rw [hs]; decide
  rw [exec_readNext hs hb] at h
  rw [exec_readLine hs hb]
  rcases finish_next_iff.mp h with hok | ⟨e, herr, rfl⟩
  · have hkept := lineKept_of_readNext hok
    have hblk := readNext_block hok
    refine ⟨fun hp => absurd (hkept.st.symm.trans hp) hnotPoisoned, fun _ hc => ?_, fun ht hc => ?_⟩
    · have hcomplete : lineComplete t = true := by rw [lineComplete, beq_iff_eq, hc, hkept.params]
      rw [readLine_of_complete hok hcomplete]
      rfl
    · have hinside : t.currentBlockIndex < t.params.blocks := by rw [hkept.params]; omega
      rw [readLine_of_incomplete hok hinside, exec_readLine ht hinside]
      cases readLine t with
      | ok u => rfl
      | error e => exact (hkept.finish_error_eq e).symm
  · refine ⟨fun _ => ?_, fun ht => ?_, fun ht => ?_⟩
    · rw [readLine_of_error herr]
      rfl
    · exact absurd (raise_st e) (by rw [ht]; decide)
    · exact absurd (raise_st e) (by rw [ht]; decide)

end Sys2Proof.Machine
end

section
/-! SUPPORT. Where READ_NEXT completes: the header ahead when it is in range, each pair when `f` is at most 15, and the
padding, with enough bits left (46_line_decoder.md R162 to R170, 70_reset_and_hazards.md R224). -/

namespace Sys2Proof.Machine

variable {s t : State}

/-! ### The header -/

/-- A shorter Peek reads the low bits of a longer one (20_memory.md R42). -/
theorem peek_eq_mod {n k : Nat} (h : n ≤ k) : peek n s = peek k s % 2 ^ n := by
  apply Nat.eq_of_testBit_eq
  intro j
  rw [Nat.testBit_mod_two_pow, peek, peek, testBit_valueOf, testBit_valueOf, getD_take_upcoming, getD_take_upcoming]
  by_cases hj : j < n
  · rw [if_pos hj, if_pos (hj.trans_le h), decide_eq_true hj, Bool.true_and]
  · rw [if_neg hj, decide_eq_false hj, Bool.false_and]

theorem headerAhead_of_lossless (h : s.params.lossless = true) :
    headerAhead s = .L ((peek Config.peekBits s).testBit 0) := if_pos h

theorem headerAhead_of_first (hl : ¬ s.params.lossless = true) (hfirst : s.readValuesCount = 0) :
    headerAhead s = .F (BitVec.ofNat 4 (peek 4 s)) ((peek Config.peekBits s).testBit 4) := by
  have hfield : BitVec.ofNat 4 (peek Config.peekBits s) = BitVec.ofNat 4 (peek 4 s) := by
    apply BitVec.eq_of_toNat_eq
    rw [BitVec.toNat_ofNat, BitVec.toNat_ofNat, peek_eq_mod (n := 4) (k := Config.peekBits) (by decide), Nat.mod_mod]
  rw [headerAhead, decodeHeader, if_neg hl, if_pos (beq_iff_eq.mpr hfirst), hfield]

theorem headerAhead_of_keep (hl : ¬ s.params.lossless = true) (hlater : s.readValuesCount ≠ 0) (hbit : peek 1 s = 0) :
    headerAhead s = .K ((peek Config.peekBits s).testBit 1) := by
  rw [peek_eq_mod (k := Config.peekBits) (by decide)] at hbit
  have hzero : (peek Config.peekBits s).testBit 0 = false := by
    rw [Nat.testBit_zero, decide_eq_false_iff_not]
    omega
  rw [headerAhead, decodeHeader, if_neg hl, if_neg (by rwa [beq_iff_eq]), if_pos hzero]

theorem headerAhead_of_delta (hl : ¬ s.params.lossless = true) (hlater : s.readValuesCount ≠ 0) (hbit : peek 1 s ≠ 0) :
    headerAhead s = .D (BitVec.ofNat 2 (peek 3 s / 2)) ((peek Config.peekBits s).testBit 3) := by
  rw [peek_eq_mod (k := Config.peekBits) (by decide)] at hbit
  have hone : ¬ (peek Config.peekBits s).testBit 0 = false := by
    rw [Nat.testBit_zero, decide_eq_false_iff_not]
    omega
  have hfield : BitVec.ofNat 2 (peek Config.peekBits s >>> 1) = BitVec.ofNat 2 (peek 3 s / 2) := by
    apply BitVec.eq_of_toNat_eq
    rw [BitVec.toNat_ofNat, BitVec.toNat_ofNat, peek_eq_mod (n := 3) (k := Config.peekBits) (by decide),
      Nat.shiftRight_one]
    omega
  rw [headerAhead, decodeHeader, if_neg hl, if_neg (by rwa [beq_iff_eq]), if_neg hone, hfield]

/-- The header of a lossless block is one bit (R163). -/
theorem readHeader_of_lossless (h : s.currentBlockExists) (hl : s.params.lossless = true)
    (hpos : s.pos + 1 ≤ s.streamLength) : ∃ m, AnswersHeader (readHeader s) 1 0 m s := by
  rw [readHeader_eq_runHeader, headerAhead_of_lossless hl]
  exact ⟨_, hdrL_of_fits h hpos⟩

/-- A header in range is read whole (R162 to R167). -/
theorem readHeader_of_inRange (h : s.currentBlockExists) (hr : s.headerInRange) (hpos : s.pos + 5 ≤ s.streamLength) :
    ∃ n d m, AnswersHeader (readHeader s) n d m s := by
  by_cases hl : s.params.lossless = true
  · exact ⟨_, _, readHeader_of_lossless h hl (by omega)⟩
  rw [readHeader_eq_runHeader]
  rcases hr with hl' | ⟨hfirst, hreal⟩ | ⟨hlater, hdelta⟩
  · exact absurd hl' hl
  · rw [headerAhead_of_first hl hfirst]
    have hfield : ((BitVec.ofNat 4 (peek 4 s)).toNat : Int) ≤ s.params.bitdepthReal.toInt := by
      have := Nat.mod_le (peek 4 s) (2 ^ 4)
      rw [BitVec.toNat_ofNat]
      omega
    exact ⟨_, _, _, hdrF_of_fits h hpos hfield⟩
  · by_cases hbit : peek 1 s = 0
    · rw [headerAhead_of_keep hl hlater hbit]
      exact ⟨_, _, _, hdrK_of_fits h (by omega)⟩
    · obtain ⟨h0, h15, hreal⟩ := hdelta.resolve_left hbit
      rw [headerAhead_of_delta hl hlater hbit]
      exact ⟨_, _, _, hdrD_of_fits h rfl (by omega) h0 h15 hreal⟩

/-! ### The pairs -/

theorem State.MidBlock.currentBlockExists (h : s.MidBlock) (hb : s.currentBlockIndex < s.params.blocks) :
    s.currentBlockExists := by
  obtain ⟨hwA, hwBC, -⟩ := (memoryWf_iff s).mp h.canonical
  obtain ⟨hA, hBC, -⟩ := h.shaped
  exact ⟨hwA, hwBC, hA.hasBlock hb, hBC.hasBlock hb⟩

theorem State.MidBlock.pairPositionExists (h : s.MidBlock) (hb : s.currentBlockIndex < s.params.blocks)
    (hi : s.i < Config.blockSize) : s.pairPositionExists := by
  refine ⟨h.currentBlockExists hb, hi, fun _ => ?_⟩
  rw [← prevB_eq]
  obtain ⟨-, -, hAP, -⟩ := h.shaped
  exact ⟨hAP.hasBlock hb, (shaped_prevB h.shaped).hasBlock hb⟩

/-- With `f` at most 15 a pair of either mode has at most `PEEK_BITS` bits (42_block_vl.md R114, 60_exceptions.md R197). -/
theorem nextPair_of_fits (h : s.pairPositionExists) (hf : s.bp.f ≤ 15) (hpos : s.pos + 48 ≤ s.streamLength) :
    ∃ t, nextPair s = .ok t := by
  cases hm : s.decodingMode with
  | true =>
    obtain ⟨a, bc, hok, -⟩ := rawpair_of_fits h (by omega) rfl rfl rfl rfl
    exact ⟨_, (nextPair_raw hm).trans hok⟩
  | false =>
    have hwindow : vlLength (vlAhead s).ca (vlAhead s).cb s ≤ 48 := vlpair_fits_window (lsbK_le _) (lsbK_le _) hf _ _
    obtain ⟨a, bc, hok, -⟩ := vlpair_of_fits h hwindow (by omega) rfl
    exact ⟨_, (nextPair_vl hm).trans hok⟩

theorem nextPair_pos_le (hf : s.bp.f ≤ 15) (h : nextPair s = .ok t) : t.pos ≤ s.pos + 48 := by
  obtain ⟨n, ca, cb, q, pa, pb, a, bc, rfl, -, hn, -⟩ := nextPair_eq h
  have hle : n ≤ 48 := hn.elim id fun hraw => by omega
  exact Nat.add_le_add_left hle _

theorem blockBody_pos_le {n : Nat} (hf : s.bp.f ≤ 15) (h : blockBody n s = .ok t) : t.pos ≤ s.pos + 48 * n := by
  induction n generalizing s with
  | zero =>
    cases h
    exact le_refl _
  | succ n ih =>
    cases hm : morePairs s with
    | false =>
      rw [blockBody_of_over hm] at h
      cases h
      exact Nat.le_add_right _ _
    | true =>
      rw [blockBody_of_more hm] at h
      obtain ⟨u, hu, h⟩ := bind_ok_iff.mp h
      have hpair := nextPair_pos_le hf hu
      have hbp : u.bp = s.bp := by
        obtain ⟨k, ca, cb, q, pa, pb, a, bc, rfl, -⟩ := nextPair_eq hu
        rfl
      have hrest := ih (s := u.withIndex (u.i + 1)) (by rwa [withIndex_bp, hbp]) h
      rw [withIndex_pos] at hrest
      omega

/-- The rounds of the block body complete: each starts at a pair position of the line. -/
theorem blockBody_of_fits {n : Nat} (h : s.MidBlock) (hb : s.currentBlockIndex < s.params.blocks) (hf : s.bp.f ≤ 15)
    (hpos : s.pos + 48 * n ≤ s.streamLength) : ∃ t, blockBody n s = .ok t := by
  induction n generalizing s with
  | zero => exact ⟨s, rfl⟩
  | succ n ih =>
    cases hm : morePairs s with
    | false => exact ⟨s, blockBody_of_over hm _⟩
    | true =>
      obtain ⟨hi, -⟩ : s.i < Config.blockSize ∧ s.readValuesCount < s.params.valuesPerLine := by
        simpa [morePairs] using hm
      obtain ⟨u, hu⟩ := nextPair_of_fits (h.pairPositionExists hb hi) hf (by omega)
      have hmid := midBlock_nextPair h hm hu
      have hle := nextPair_pos_le hf hu
      rw [blockBody_of_more hm, hu, ok_bind]
      obtain ⟨k, ca, cb, q, pa, pb, a, bc, rfl, -⟩ := nextPair_eq hu
      refine ih hmid hb hf ?_
      change _ ≤ s.streamLength
      rw [withIndex_pos]
      omega

/-! ### The padding and the whole block -/

theorem padBoundary_le (m : I32) : padBoundary m ≤ 256 := by unfold padBoundary; split <;> omega

theorem padLine_of_fits (hpos : s.pos + 255 ≤ s.streamLength) : ∃ t, padLine s = .ok t := by
  have hlt := alignUp_lt (p := s.pos) (padBoundary_pos s.params.alignMode)
  have hle := padBoundary_le s.params.alignMode
  cases hp : padDue s with
  | false => exact ⟨s, padLine_ok_iff.mpr (.inl ⟨hp, rfl⟩)⟩
  | true => exact ⟨_, padLine_ok_iff.mpr (.inr ⟨hp, alignTo_ok_iff.mpr ⟨by omega, rfl⟩⟩)⟩

/-- The BlockParameter `f` of a block does not exceed `bitdepth_real` (41_block_parameters.md R105). -/
theorem enterBlock_f_le (hreal : s.params.bitdepthReal.toInt ≤ 15) : (enterBlock s).bp.f ≤ 15 := by
  change (blockParams s.params s.bitdepthDiff).f ≤ 15
  rw [blockParams_f]
  omega

/-- With its header read, 16 pairs and the padding ahead, a block completes. -/
theorem readBlock_of_fits {u : State} (h : s.MidBlock) (hi : s.i = 0) (hb : s.currentBlockIndex < s.params.blocks)
    (hreal : s.params.bitdepthReal.toInt ≤ 15) (hu : readHeader s = .ok u) (hpos : u.pos + 1023 ≤ s.streamLength) :
    ∃ t, readBlock s = .ok t := by
  obtain ⟨hmid, hiu⟩ := midBlock_readHeader h hu
  rw [readBlock_eq_bind, hu, ok_bind]
  obtain ⟨n, d, m, a, bc, rfl, -⟩ := readHeader_eq hu
  have hf := enterBlock_f_le (s := afterHeader n d m a bc s) hreal
  obtain ⟨v, hv⟩ := blockBody_of_fits (n := Config.blockSize) (midBlock_enterBlock hmid (hiu.trans hi)) hb hf
    (Nat.le_trans (Nat.add_le_add_left (by decide) _) hpos)
  have hvpos := blockBody_pos_le hf hv
  have hstream : v.streamLength = s.streamLength := by
    obtain ⟨-, -, -, -, -, -, -, -, -, -, -, -, -, hstream, -⟩ := blockBody_frame hv
    exact congrArg List.length hstream
  obtain ⟨w, hw⟩ := padLine_of_fits (s := leaveBlock v) (by
    change v.pos + 255 ≤ v.streamLength
    change v.pos ≤ (afterHeader n d m a bc s).pos + 48 * 16 at hvpos
    omega)
  rw [hv, ok_bind, closeBlock, hw]
  exact ⟨_, rfl⟩

theorem readNext_of_fits {u : State} (h : s.Inv) (hs : s.st = .active) (hb : s.currentBlockIndex < s.params.blocks)
    (hreal : s.params.bitdepthReal.toInt ≤ 15) (hu : readHeader s = .ok u) (hpos : u.pos + 1023 ≤ s.streamLength) :
    ∃ t, readNext s = .ok t := by
  obtain ⟨hmid, hi⟩ := midBlock_of_inv h hs
  obtain ⟨t, ht⟩ := readBlock_of_fits hmid hi hb hreal hu hpos
  exact ⟨t, readNext_ok_iff.mpr ⟨readAllowed_of_active hs hb, ht⟩⟩

end Sys2Proof.Machine
end

section
/-! SUPPORT. What a completed READ_NEXT has done: the registers of the block, the cursor, the samples and the header entries
(46_line_decoder.md R168 to R170, 10_state.md R14, R24). -/

namespace Sys2Proof.Machine

variable {s t : State}

/-! ### The parts of the block -/

/-- The parts of a completed block: the header, the pairs, and a cursor at most 255 bits of padding further on. -/
theorem readBlock_eq (h : readBlock s = .ok t) : ∃ u v p, readHeader s = .ok u ∧
    blockBody Config.blockSize (enterBlock u) = .ok v ∧ t = returnComplete ((leaveBlock v).atPos p) ∧
    v.pos ≤ p ∧ p ≤ v.pos + 255 ∧ (padDue (leaveBlock v) = true → padBoundary v.params.alignMode ∣ p) ∧
    (padDue (leaveBlock v) = false → p = v.pos) := by
  obtain ⟨u, v, hu, hv, ⟨hpad, rfl⟩ | ⟨hpad, w, hw, rfl⟩⟩ := readBlock_ok_iff.mp h
  · exact ⟨u, v, v.pos, hu, hv, rfl, le_refl _, Nat.le_add_right _ _, fun hp => absurd hp (by rw [hpad]; decide),
      fun _ => rfl⟩
  · obtain ⟨-, rfl⟩ := alignTo_ok_iff.mp hw
    have hpos := padBoundary_pos v.params.alignMode
    have hlt := alignUp_lt (p := v.pos) hpos
    have hle := padBoundary_le v.params.alignMode
    exact ⟨u, v, alignUp (padBoundary v.params.alignMode) v.pos, hu, hv, rfl, le_alignUp hpos, by omega,
      fun _ => dvd_alignUp _ _, fun hp => absurd hp (by rw [hpad]; decide)⟩

/-- The block's parameters are derived from its depth (41_block_parameters.md R106). -/
theorem readBlock_bp (h : readBlock s = .ok t) : t.bp = blockParams s.params t.bitdepthDiff := by
  obtain ⟨u, v, p, hu, hv, rfl, -⟩ := readBlock_eq h
  obtain ⟨-, -, -, hbp, hdiff, -⟩ := blockBody_frame hv
  change v.bp = blockParams s.params v.bitdepthDiff
  rw [hbp, hdiff, ← (lineKept_of_readHeader hu).params]
  rfl

/-! ### The cursor -/

/-- A header has 1 to 5 bits (30_encoding.md R62 to R65). -/
theorem readHeader_pos (h : readHeader s = .ok t) : s.pos < t.pos ∧ t.pos ≤ s.pos + 5 := by
  obtain ⟨n, d, m, a, bc, rfl, hn1, hn5, -⟩ := readHeader_eq h
  exact ⟨Nat.lt_add_of_pos_right hn1, Nat.add_le_add_left hn5 _⟩

/-- The cursor after the header, the pairs and the padding, which only follows the last block of a line. -/
theorem readBlock_pos (hreal : s.params.bitdepthReal.toInt ≤ 15) (h : readBlock s = .ok t) :
    ∃ u, readHeader s = .ok u ∧ u.pos ≤ t.pos ∧ t.pos ≤ u.pos + 1023 ∧
      (lineComplete t = false → t.pos ≤ u.pos + 768) := by
  obtain ⟨u, v, p, hu, hv, rfl, hlo, hhi, -, hnone⟩ := readBlock_eq h
  have hf : (enterBlock u).bp.f ≤ 15 := enterBlock_f_le (by rwa [(lineKept_of_readHeader hu).params])
  have hpairs : v.pos ≤ u.pos + 768 := blockBody_pos_le hf hv
  have hforward : u.pos ≤ v.pos := (readsOn_of_blockBody hv).forward
  refine ⟨u, hu, hforward.trans hlo, by change p ≤ _; omega, fun hc => ?_⟩
  have hpad : padDue (leaveBlock v) = false := by
    rw [padDue, Bool.and_eq_false_iff]
    exact .inl hc
  change p ≤ _
  rw [hnone hpad]
  exact hpairs

/-- After the last block of a line with `stride` the cursor is aligned (46_line_decoder.md R170). -/
theorem readBlock_aligned (h : readBlock s = .ok t) (hc : lineComplete t = true) (hstride : t.params.stride = true) :
    padBoundary t.params.alignMode ∣ t.pos := by
  obtain ⟨u, v, p, -, -, rfl, -, -, hpad, -⟩ := readBlock_eq h
  exact hpad (Bool.and_eq_true_iff.mpr ⟨hc, hstride⟩)

/-! ### The samples -/

/-- Between `s` and `t` only samples of pairs that were counted between them are written. -/
structure SamplesKept (s t : State) : Prop where
  count : s.readValuesCount ≤ t.readValuesCount
  lineA : ∀ n, n < s.readValuesCount ∨ t.readValuesCount ≤ n → t.lineA.sampleAt n = s.lineA.sampleAt n
  lineBC : ∀ n, n < s.readValuesCount ∨ t.readValuesCount ≤ n → t.lineBC.sampleAt n = s.lineBC.sampleAt n

theorem SamplesKept.refl (s : State) : SamplesKept s s := ⟨le_refl _, fun _ _ => rfl, fun _ _ => rfl⟩

theorem SamplesKept.trans {u : State} (h : SamplesKept s u) (h' : SamplesKept u t) : SamplesKept s t := by
  have hsu := h.count
  have hut := h'.count
  exact ⟨hsu.trans hut, fun n hn => (h'.lineA n (by omega)).trans (h.lineA n (by omega)),
    fun n hn => (h'.lineBC n (by omega)).trans (h.lineBC n (by omega))⟩

theorem samplesKept_of_readHeader (h : readHeader s = .ok t) : SamplesKept s t := by
  obtain ⟨n, d, m, a, bc, rfl, -, -, -, -, ha, hbc⟩ := readHeader_eq h
  obtain ⟨-, hfa, hsa⟩ := hdrWrite_shape ha
  obtain ⟨-, hfbc, hsbc⟩ := hdrWrite_shape hbc
  refine ⟨le_refl _, fun k _ => ?_, fun k _ => ?_⟩
  · change readCell a.fill a.samples k = _
    rw [hfa, hsa]
    rfl
  · change readCell bc.fill bc.samples k = _
    rw [hfbc, hsbc]
    rfl

/-- The key of a pair is the number of pairs counted before it (46_line_decoder.md R174). -/
theorem State.MidBlock.sampleKey_eq (h : s.MidBlock) (hm : morePairs s = true) :
    sampleKey s.currentBlockIndex s.i = s.readValuesCount := by
  obtain ⟨-, hv⟩ : s.i < Config.blockSize ∧ s.readValuesCount < s.params.valuesPerLine := by
    simpa [morePairs] using hm
  have hcount := h.count
  rw [sampleKey]
  simp only [Config.blockSize] at *
  omega

theorem samplesKept_of_nextPair (h : s.MidBlock) (hm : morePairs s = true) (hp : nextPair s = .ok t) :
    SamplesKept s t := by
  have hkey := h.sampleKey_eq hm
  obtain ⟨hwA, hwBC, -⟩ := (memoryWf_iff s).mp h.canonical
  obtain ⟨n, ca, cb, q, pa, pb, a, bc, rfl, -, -, ha, hbc, -⟩ := nextPair_eq hp
  have hother (k : Nat) (hk : k < s.readValuesCount ∨ s.readValuesCount + 1 ≤ k) :
      k ≠ sampleKey s.currentBlockIndex s.i := by omega
  exact ⟨Nat.le_succ _, fun k hk => (memWrite_sampleAt hwA ha k).trans (if_neg (hother k hk)),
    fun k hk => (memWrite_sampleAt hwBC hbc k).trans (if_neg (hother k hk))⟩

theorem samplesKept_of_blockBody {n : Nat} (h : s.MidBlock) (hb : blockBody n s = .ok t) : SamplesKept s t := by
  have hround : t.MidBlock ∧ SamplesKept s t := by
    refine blockBody_keeps (P := fun u => u.MidBlock ∧ SamplesKept s u) ?_ n ⟨h, .refl s⟩ hb
    rintro u v ⟨hmid, hkept⟩ hm hv
    exact ⟨midBlock_nextPair hmid hm hv, { hkept.trans (samplesKept_of_nextPair hmid hm hv) with }⟩
  exact hround.2

theorem samplesKept_of_readNext (h : s.Inv) (hr : readNext s = .ok t) : SamplesKept s t := by
  obtain ⟨hallowed, hblock⟩ := readNext_ok_iff.mp hr
  obtain ⟨hs, -⟩ := readAllowed_iff.mp hallowed
  obtain ⟨hmid, hi⟩ := midBlock_of_inv h hs
  obtain ⟨u, v, p, hu, hv, rfl, -⟩ := readBlock_eq hblock
  obtain ⟨hmidu, hiu⟩ := midBlock_readHeader hmid hu
  have hheader : SamplesKept s (enterBlock u) := { samplesKept_of_readHeader hu with }
  have hpairs := hheader.trans (samplesKept_of_blockBody (midBlock_enterBlock hmidu (hiu.trans hi)) hv)
  exact { hpairs with }

/-! ### The header entries -/

/-- The pairs write no header entry. -/
theorem blockBody_headers {n : Nat} (h : blockBody n s = .ok t) :
    t.lineA.headers = s.lineA.headers ∧ t.lineBC.headers = s.lineBC.headers := by
  refine blockBody_keeps (P := fun u => u.lineA.headers = s.lineA.headers ∧ u.lineBC.headers = s.lineBC.headers) ?_ n
    ⟨rfl, rfl⟩ h
  rintro u v ⟨hA, hBC⟩ - hv
  obtain ⟨k, ca, cb, q, pa, pb, a, bc, rfl, -, -, ha, hbc, -⟩ := nextPair_eq hv
  obtain ⟨-, -, hha⟩ := memWrite_shape ha
  obtain ⟨-, -, hhbc⟩ := memWrite_shape hbc
  exact ⟨hha.trans hA, hhbc.trans hBC⟩

/-- The depth of the block is recorded in its two header entries (46_line_decoder.md R168). -/
theorem readBlock_headerAt (hw : s.memoryWf = true) (h : readBlock s = .ok t) (blk : Nat) :
    (t.lineA.headerAt blk =
      if blk = s.currentBlockIndex then BitVec.ofNat 4 t.bitdepthDiff else s.lineA.headerAt blk) ∧
    (t.lineBC.headerAt blk =
      if blk = s.currentBlockIndex then BitVec.ofNat 4 t.bitdepthDiff else s.lineBC.headerAt blk) := by
  obtain ⟨hwA, hwBC, -⟩ := (memoryWf_iff s).mp hw
  obtain ⟨u, v, p, hu, hv, rfl, -⟩ := readBlock_eq h
  obtain ⟨-, -, -, -, hdiff, -⟩ := blockBody_frame hv
  obtain ⟨hA, hBC⟩ := blockBody_headers hv
  obtain ⟨n, d, m, a, bc, rfl, -, -, -, -, ha, hbc⟩ := readHeader_eq hu
  have hd : v.bitdepthDiff = d := hdiff
  change (readCell 0 v.lineA.headers blk = if _ then BitVec.ofNat 4 v.bitdepthDiff else _) ∧
    (readCell 0 v.lineBC.headers blk = if _ then BitVec.ofNat 4 v.bitdepthDiff else _)
  rw [hA, hBC, hd]
  exact ⟨hdrWrite_headerAt hwA ha blk, hdrWrite_headerAt hwBC hbc blk⟩

/-! ### The count -/

/-- A block counts 16 pairs, or what is left of the line. -/
theorem readNext_count (h : s.Inv) (hr : readNext s = .ok t) :
    t.readValuesCount = min (s.readValuesCount + 16) s.params.valuesPerLine := by
  have hkept := lineKept_of_readNext hr
  have hblk := readNext_block hr
  obtain ⟨hallowed, -⟩ := readNext_ok_iff.mp hr
  obtain ⟨hs, -⟩ := readAllowed_iff.mp hallowed
  obtain ⟨hmid, hi⟩ := midBlock_of_inv h hs
  obtain ⟨hmid', hi'⟩ := midBlock_of_inv (inv_readNext h hr) (hkept.st.trans hs)
  have hcount := hmid.count
  have hcount' := hmid'.count
  rw [hi', hblk, hkept.params] at hcount'
  rw [hi] at hcount
  simp only [Config.blockSize] at *
  omega

end Sys2Proof.Machine
end

section
/-! SUPPORT. READ_LINE on a lossless line, block by block (46_line_decoder.md R171). -/

namespace Sys2Proof.Machine

variable {s t : State}

/-- One READ_NEXT of a lossless line: one bit of header and at most 768 bits of pairs, and padding only after the
last block. -/
theorem readNext_of_lossless (h : s.Inv) (hs : s.st = .active) (hb : s.currentBlockIndex < s.params.blocks)
    (hl : s.params.lossless = true) (hreal : s.params.bitdepthReal.toInt ≤ 15)
    (hpos : s.pos + 1024 ≤ s.streamLength) :
    ∃ t, readNext s = .ok t ∧ s.pos < t.pos ∧ (lineComplete t = false → t.pos ≤ s.pos + 769) := by
  obtain ⟨hmid, -⟩ := midBlock_of_inv h hs
  obtain ⟨m, a, bc, hheader, -⟩ := readHeader_of_lossless (hmid.currentBlockExists hb) hl (by omega)
  obtain ⟨t, ht⟩ := readNext_of_fits h hs hb hreal hheader (by change s.pos + 1 + 1023 ≤ _; omega)
  obtain ⟨u, hu, hlo, -, hhi⟩ := readBlock_pos hreal (readNext_ok_iff.mp ht).2
  obtain rfl : afterHeader 1 0 m a bc s = u := Except.ok.inj (hheader.symm.trans hu)
  exact ⟨t, ht, hlo, fun hc => by have := hhi hc; change _ ≤ s.pos + 1 + 768 at this; omega⟩

/-- A lossless line completes, by induction on the blocks after the next one. -/
theorem readLine_of_lossless {n : Nat} (h : s.Inv) (hs : s.st = .active)
    (hblocks : s.params.blocks = s.currentBlockIndex + n + 1) (hl : s.params.lossless = true)
    (hreal : s.params.bitdepthReal.toInt ≤ 15) (hpos : s.pos + 769 * n + 1024 ≤ s.streamLength) :
    ∃ t, readLine s = .ok t ∧ lineComplete t = true ∧ s.pos < t.pos ∧ SamplesKept s t := by
  induction n generalizing s with
  | zero =>
    obtain ⟨u, hu, hlt, -⟩ := readNext_of_lossless h hs (by omega) hl hreal (by omega)
    have hc : lineComplete u = true := by
      rw [lineComplete, beq_iff_eq, readNext_block hu, (lineKept_of_readNext hu).params, hblocks]
    exact ⟨_, readLine_of_complete hu hc, hc, hlt, { samplesKept_of_readNext h hu with }⟩
  | succ n ih =>
    rw [Nat.mul_add_one] at hpos
    obtain ⟨u, hu, hlt, hle⟩ := readNext_of_lossless h hs (by omega) hl hreal (by omega)
    have hkept := lineKept_of_readNext hu
    have hblk := readNext_block hu
    have hblocks' : u.params.blocks = u.currentBlockIndex + n + 1 := by rw [hkept.params, hblk]; omega
    have hlength : u.streamLength = s.streamLength := congrArg List.length hkept.stream
    have hc : lineComplete u = false := by
      rw [lineComplete, beq_eq_false_iff_ne]
      omega
    have hnext := hle hc
    obtain ⟨t, ht, hcomplete, hlt', hsamples⟩ := ih (inv_readNext h hu) (hkept.st.trans hs) hblocks'
      (by rwa [hkept.params]) (by rwa [hkept.params]) (by omega)
    refine ⟨t, ?_, hcomplete, hlt.trans hlt', (samplesKept_of_readNext h hu).trans hsamples⟩
    rw [readLine_of_incomplete hu (by omega), ht]

end Sys2Proof.Machine
end

section
/-! The statements of 46_line_decoder.md on READ_NEXT and READ_LINE that complete, settled. -/

namespace Sys2Proof.Machine

/-- Settles O31: READ_NEXT completes, and what it has done is read off its header, its pairs and its padding. -/
theorem readNextDecodesOneBlock : Obligations.ReadNextDecodesOneBlock := by
  intro s h hs hb hreal hheader hstream
  have hpos : s.pos + 1028 ≤ s.streamLength := hstream
  obtain ⟨hmid, -⟩ := midBlock_of_inv h hs
  obtain ⟨k, d, m, a, bc, hread, -⟩ := readHeader_of_inRange (hmid.currentBlockExists hb) hheader (by omega)
  have hbits := (readHeader_pos hread).2
  obtain ⟨t, ht⟩ := readNext_of_fits h hs hb hreal hread (by omega)
  have hblock := (readNext_ok_iff.mp ht).2
  have hkept := lineKept_of_readNext ht
  have hsamples := samplesKept_of_readNext h ht
  have hheaders := readBlock_headerAt hmid.canonical hblock
  have hblk := readNext_block ht
  have hresult : t.result = .lineComplete (decide (s.currentBlockIndex + 1 = s.params.blocks)) := by
    rw [readBlock_result hblock, lineComplete, hblk, hkept.params]
    rfl
  obtain ⟨hlt, hle⟩ : s.pos < t.pos ∧ t.pos ≤ s.pos + 1028 := by
    obtain ⟨u, hu, hlo, hhi, -⟩ := readBlock_pos hreal hblock
    obtain ⟨h1, h5⟩ := readHeader_pos hu
    omega
  have haligned (hlast : s.currentBlockIndex + 1 = s.params.blocks) (hstride : s.params.stride = true) :
      (if s.params.alignMode = 1 then 256 else 128) ∣ t.pos := by
    have hcomplete : lineComplete t = true := by rw [lineComplete, beq_iff_eq, hblk, hkept.params, hlast]
    have hdvd := readBlock_aligned hblock hcomplete (by rwa [hkept.params])
    rwa [padBoundary_eq, hkept.params] at hdvd
  refine ⟨t, ?_, hkept.st.trans hs, hkept.err, hkept.params, hblk, readNext_count h ht, hresult, hlt, hle, haligned,
    readBlock_bp hblock, hkept.lineIndex, hkept.noiseLevel, hkept.noiseLevels, hkept.prevA, hkept.prevB, hkept.prevC,
    hkept.stream, hkept.port, hkept.seq, hkept.freeCtr, hkept.hookState,
    fun n hn => ⟨hsamples.lineA n hn, hsamples.lineBC n hn⟩, fun blk => (hheaders blk).1, fun blk => (hheaders blk).2⟩
  rw [exec_readNext hs hb, ht, finish_ok]

/-- Settles O34: the line completes, and its samples, its pairs and its registers follow from what each READ_NEXT keeps. -/
theorem readLineCompletesTheLine : Obligations.ReadLineCompletesTheLine := by
  intro s h hs hb hl hreal hstream
  obtain ⟨n, hn⟩ : ∃ n, s.params.blocks = s.currentBlockIndex + n + 1 :=
    ⟨s.params.blocks - s.currentBlockIndex - 1, by omega⟩
  have hrounds : s.params.blocks - s.currentBlockIndex = n + 1 := by omega
  have hpos : s.pos + 769 * n + 1024 ≤ s.streamLength := by
    rwa [hrounds, Nat.mul_add_one, ← Nat.add_assoc, Nat.add_assoc _ 769 255] at hstream
  obtain ⟨t, ht, hc, hlt, hsamples⟩ := readLine_of_lossless h hs hn hl hreal hpos
  have hkept := lineKept_of_readLine ht
  have hinv := inv_readLine h ht
  have hst : t.st = .active := hkept.st.trans hs
  obtain ⟨hcount, hblk⟩ := readValuesCount_of_lineComplete hinv hst hc
  obtain ⟨-, hend, -⟩ := hinv
  obtain ⟨u, -, hdone⟩ := readLine_ok ht
  rw [hkept.params] at hcount hblk
  refine ⟨t, ?_, hst, hkept.err, hkept.params, by rw [hdone]; rfl, hblk, hcount, hlt, hend, hkept.stream, hkept.port,
    hkept.lineIndex, hkept.noiseLevel, hkept.noiseLevels, hkept.prevA, hkept.prevB, hkept.prevC, fun k hk => ?_⟩
  · rw [exec_readLine hs hb, ht, finish_ok]
  · rw [← hcount] at hk
    exact ⟨hsamples.lineA k hk, hsamples.lineBC k hk⟩

end Sys2Proof.Machine
end

section
/-! SUPPORT. Where VLPAIR stops: at the peek window, and after it at the end of the stream (60_exceptions.md R191, R197, R199). -/

namespace Sys2Proof.Machine

variable {s : State} {ca cb : Cls} {lsa lsb : Nat}

theorem consumeWindow_of_gt {n : Nat} (h : n > Config.peekBits) :
    consumeWindow n s = .error (.raised .peekWindowExceeded) := if_pos h

theorem consumeWindow_of_le {n : Nat} (h : n ≤ Config.peekBits) : consumeWindow n s = consume n s :=
  if_neg (Nat.not_lt.mpr h)

/-- Past LoadOld, VLPAIR stops where the Consume of the whole pair stops. -/
theorem vlpair_of_consumeWindow_error {e : Stop} (h : s.pairPositionExists)
    (hc : consumeWindow (vlLength ca cb s) s.withAbove = .error e) : vlpair ca lsa cb lsb s = .error e := by
  rw [vlpair, loadOld_of_pairPositionExists h, ok_bind, vlLength_withAbove, hc, error_bind]

theorem vlpair_of_over_window (h : s.pairPositionExists) (hwindow : vlLength ca cb s > Config.peekBits) :
    vlpair ca lsa cb lsb s = .error (.raised .peekWindowExceeded) :=
  vlpair_of_consumeWindow_error h (consumeWindow_of_gt hwindow)

theorem vlpair_of_short (h : s.pairPositionExists) (hwindow : vlLength ca cb s ≤ Config.peekBits)
    (hstream : s.pos + vlLength ca cb s > s.streamLength) :
    vlpair ca lsa cb lsb s = .error (.raised .unexpectedEndOfStream) :=
  vlpair_of_consumeWindow_error h ((consumeWindow_of_le hwindow).trans (consume_error (s := s.withAbove) hstream))

/-- Every pair fits the window when `f` is at most 15 (60_exceptions.md R197). -/
theorem vlLength_le_peekBits (hf : s.bp.f ≤ 15) : vlLength ca cb s ≤ Config.peekBits :=
  vlpair_fits_window (lsbK_le _) (lsbK_le _) hf ca cb

/-- The one form of pair over the window, with the largest `f` (60_exceptions.md R197). -/
theorem escapes_of_vlLength_gt (hwindow : vlLength ca cb s > Config.peekBits) (hf : s.bp.f ≤ 16) :
    ca = 12 ∧ cb = 12 ∧ s.bp.f = 16 := by
  have hmore : ¬ s.bp.f ≤ 15 := fun hle => Nat.not_le.mpr hwindow (vlLength_le_peekBits hle)
  have hlargest : s.bp.f = 16 := by omega
  rw [vlLength, hlargest] at hwindow
  obtain ⟨ha, hb⟩ : ca = 12 ∧ cb = 12 := by
    by_contra hne
    exact Nat.not_le.mpr hwindow ((vlpair_fits_window_iff (lsbK_le _) (lsbK_le _) ca cb).mpr hne)
  exact ⟨ha, hb, hlargest⟩

end Sys2Proof.Machine
end

section
/-! SUPPORT. What each life-cycle state allows (60_exceptions.md R194), and what POISONED leaves of an instruction (R201). -/

namespace Sys2Proof.Machine

variable {s t : State}

/-- Every command but CONSTRUCT has the legality of `command`. -/
theorem exec_eq_command {i : Instr} (hi : commandCode i ≠ none) (hc : ∀ P, i ≠ .construct P) (s : State) :
    ∃ allowed body, exec i s = command s allowed body := by
  cases i with
  | construct P => exact absurd rfl (hc P)
  | readNext | readLine | finalizeLine | lineA | lineB | reserved _ => exact ⟨_, _, rfl⟩
  | hdrL _ | hdrF _ _ | hdrK _ | hdrD _ _ | pfx0 | pfx1 | pfx2 | pfx3 | pfx4 | pfx5 | pfx6 | pfx7 | pfx8 | pfx9
  | pfx10 | pfx11 | pfx12 | vlpair _ _ _ _ | rawpair _ _ | pad => exact absurd rfl hi

theorem exec_command_poisoned {i : Instr} (hi : commandCode i ≠ none) (hc : ∀ P, i ≠ .construct P)
    (hs : s.st = .poisoned) : exec i s = .next (s.withResult .refused) := by
  obtain ⟨allowed, body, hexec⟩ := exec_eq_command hi hc s
  rw [hexec, command_poisoned hs]

theorem takesFault_of_disallowed {allowed : Bool} {body : Res State} (hs : s.st ≠ .poisoned) (ha : allowed = false) :
    takesFault (command s allowed body) s .invalidState := by
  rw [ha, command_disallowed hs]
  exact takesFault_finish s _

theorem readAllowed_eq_false (h : s.st = .active → s.params.blocks ≤ s.currentBlockIndex) : readAllowed s = false := by
  rw [← Bool.not_eq_true, readAllowed_iff]
  rintro ⟨hs, hb⟩
  exact Nat.not_lt.mpr (h hs) hb

theorem finalizeAllowed_eq_false (h : s.st = .active → s.currentBlockIndex ≠ s.params.blocks) :
    finalizeAllowed s = false := by
  rw [← Bool.not_eq_true, finalizeAllowed, Bool.and_eq_true, beq_iff_eq, lineComplete, beq_iff_eq]
  rintro ⟨hs, hb⟩
  exact h hs hb

/-- The operations of an element answer a state of the same line or stop. -/
theorem lineKept_or_raise_of_finish {r : Res State} (hok : ∀ u, r = .ok u → LineKept s u) (h : finish s r = .next t) :
    LineKept s t ∨ ∃ e, t = raise e s := by
  rcases finish_next_iff.mp h with hr | ⟨e, -, rfl⟩
  · exact .inl (hok t hr)
  · exact .inr ⟨e, rfl⟩

/-- A stream element answers a state of the same line, or a fault of the spec from the state it began in. -/
theorem lineKept_or_raise_of_element {i : Instr} (hi : commandCode i = none) (h : exec i s = .next t) :
    LineKept s t ∨ ∃ e, t = raise e s := by
  cases i with
  | hdrL m => exact lineKept_or_raise_of_finish (fun _ => lineKept_of_hdrL) h
  | hdrF d m => exact lineKept_or_raise_of_finish (fun _ => lineKept_of_hdrF) h
  | hdrK m => exact lineKept_or_raise_of_finish (fun _ => lineKept_of_hdrK) h
  | hdrD code m => exact lineKept_or_raise_of_finish (fun _ => lineKept_of_hdrD) h
  | pfx0 | pfx1 | pfx2 | pfx3 | pfx4 | pfx5 | pfx6 | pfx7 | pfx8 | pfx9 | pfx10 | pfx11 | pfx12 =>
    exact .inl (lineKept_of_returnCodeword h)
  | vlpair ca lsa cb lsb => exact lineKept_or_raise_of_finish (fun _ => lineKept_of_vlpair) h
  | rawpair v1 v2 => exact lineKept_or_raise_of_finish (fun _ => lineKept_of_rawpair) h
  | pad => exact lineKept_or_raise_of_finish (fun _ => lineKept_of_pad) h
  | construct _ | readNext | readLine | finalizeLine | lineA | lineB | reserved _ => cases hi

end Sys2Proof.Machine
end

section
/-! The statements of 60_exceptions.md, settled. -/

namespace Sys2Proof.Machine

/-- Settles O27: the window stands before the end of the stream in `consumeWindow`, and the widths bound the length. -/
theorem vlpairFaultsOnWindowThenOnStreamEnd : Obligations.VlpairFaultsOnWindowThenOnStreamEnd := by
  intro ca lsa cb lsb s h len
  rw [exec_vlpair]
  refine ⟨fun hwindow => ?_, fun hwindow hstream => ?_, vlLength_le_peekBits, escapes_of_vlLength_gt⟩
  · rw [vlpair_of_over_window h hwindow]
    exact takesFault_finish s _
  · rw [vlpair_of_short h hwindow hstream]
    exact takesFault_finish s _

/-- Settles O39: a reserved code is allowed wherever a command is not refused, and its body raises. -/
theorem reservedCodesRaiseNotImplemented : Obligations.ReservedCodesRaiseNotImplemented := by
  intro odd s hs
  have hexec : exec (.reserved odd) s = finish s (.error (.raised .notImplemented)) := command_allowed hs
  rw [hexec]
  exact takesFault_finish s _

/-- Settles O40: each row of the table of R194 that does not allow its command. -/
theorem disallowedCommandsRaiseInvalidState : Obligations.DisallowedCommandsRaiseInvalidState := by
  intro s
  refine ⟨fun hs c hc => ?_, fun hs hblocks => ?_, fun hs hblocks => ?_⟩
  · have hpoisoned : s.st ≠ .poisoned := by rw [hs]; decide
    have hactive : s.st ≠ .active := by rw [hs]; decide
    have hread : readAllowed s = false := readAllowed_eq_false fun h => absurd h hactive
    have hfinalize : finalizeAllowed s = false := finalizeAllowed_eq_false fun h => absurd h hactive
    have hlines : (s.st == .active) = false := beq_eq_false_iff_ne.mpr hactive
    rcases hc with rfl | rfl | rfl | rfl | rfl
    · exact takesFault_of_disallowed hpoisoned hread
    · exact takesFault_of_disallowed hpoisoned hread
    · exact takesFault_of_disallowed hpoisoned hfinalize
    · exact takesFault_of_disallowed hpoisoned hlines
    · exact takesFault_of_disallowed hpoisoned hlines
  · have hpoisoned : s.st ≠ .poisoned := by rw [hs]; decide
    have hread : readAllowed s = false := readAllowed_eq_false fun _ => hblocks
    exact ⟨takesFault_of_disallowed hpoisoned hread, takesFault_of_disallowed hpoisoned hread⟩
  · have hpoisoned : s.st ≠ .poisoned := by rw [hs]; decide
    exact takesFault_of_disallowed hpoisoned (finalizeAllowed_eq_false fun _ => hblocks)

/-- Settles O41: all of them are commands, and none is CONSTRUCT. -/
theorem poisonedInstanceRefusesCommands : Obligations.PoisonedInstanceRefusesCommands := by
  intro s c hs hc
  obtain ⟨hcommand, hconstruct⟩ : commandCode c ≠ none ∧ ∀ P, c ≠ .construct P := by
    rcases hc with rfl | rfl | rfl | rfl | rfl | rfl | rfl <;> exact ⟨nofun, nofun⟩
  exact exec_command_poisoned hcommand hconstruct hs

/-- Settles O42: a command is refused; an element that completes keeps `st` and `err`, and the fault of one that does not
comes when the cause is latched already. -/
theorem onlyConstructLeavesPoisoned : Obligations.OnlyConstructLeavesPoisoned := by
  intro i s t hc h hs
  by_cases hi : commandCode i = none
  · rcases lineKept_or_raise_of_element hi h with hkept | ⟨e, rfl⟩
    · exact ⟨hkept.st.trans hs, hkept.err⟩
    · exact ⟨raise_st e, (raise_err e).trans (if_pos hs)⟩
  · rw [exec_command_poisoned hi hc hs] at h
    cases h
    exact ⟨hs, rfl⟩

end Sys2Proof.Machine
end

section
/-! SUPPORT. The conditions CONSTRUCT tests, as 70_reset_and_hazards.md R221 lists them, and what it answers in either case. -/

namespace Sys2Proof.Machine

variable {s : State}

/-- The two alignment modes as words and as integers (00_scope.md R6). -/
theorem alignMode_toInt_iff (m : I32) : m.toInt = 0 ∨ m.toInt = 1 ↔ m = 0 ∨ m = 1 :=
  or_congr (BitVec.toInt_inj (y := 0)) (BitVec.toInt_inj (y := 1))

/-- The validation of CONSTRUCT is the range column of the table (00_scope.md R6, 60_exceptions.md R193). -/
theorem legalParams_iff (P : Parameters) :
    legalParams P = true ↔
      (P.defaultPixValue.toNat : Int) ≤ P.maxAllowedPixelValue.toInt ∧
      0 ≤ P.maxAllowedPixelValue.toInt ∧ P.maxAllowedPixelValue.toInt ≤ 65535 ∧
      P.maxAllowedRawValue.toInt ≥ 4 ∧ P.blocksCount.toInt ≥ 1 ∧
      1 ≤ P.maxValuesCount.toInt ∧ P.maxValuesCount.toInt ≤ P.blocksCount.toInt * 16 ∧
      (P.alignMode = 0 ∨ P.alignMode = 1) ∧
      1 ≤ P.bitdepthReal.toInt ∧ P.bitdepthReal.toInt ≤ 16 ∧ P.bayerPattern.toNat ≤ 3 := by
  rw [← alignMode_toInt_iff]
  simp only [legalParams, Bool.and_eq_true, Bool.or_eq_true, decide_eq_true_eq, and_assoc]
  rfl

theorem exec_construct (P : Parameters) (s : State) : exec (.construct P) s = execConstruct P s := rfl

/-- A failed CONSTRUCT takes its fault from the new instance, which is not POISONED (70_reset_and_hazards.md R221). -/
theorem takesFault_execConstruct {P : Parameters} (h : legalParams P = false) :
    takesFault (execConstruct P s) (newInstance s) .parameterOutOfRange := by
  rw [execConstruct_illegal h]
  exact takesFault_finish (newInstance s) .parameterOutOfRange

/-- A command at the head of the port is what the next action runs (70_reset_and_hazards.md R228, R229). -/
theorem commandStep_of_command {cmd : BitVec 3} {arg : Parameters} {rest : List HostAction} {i : Instr}
    (hport : s.port = .command cmd arg :: rest) (hi : decode .port (.port cmd arg) = .ok i) :
    commandStep s = exec i (s.withPort rest) := by
  simp only [commandStep, hport, hi]

end Sys2Proof.Machine
end

section
/-! The statements of 70_reset_and_hazards.md, settled. -/

namespace Sys2Proof.Machine

/-- Settles O30: the two cases of the validation. The new instance is not POISONED, so a failed CONSTRUCT latches its own cause
from every state. -/
theorem constructResetsTheInstance : Obligations.ConstructResetsTheInstance := by
  intro P s legal w line
  have hlegal : legalParams P = true ↔ legal := legalParams_iff P
  rw [exec_construct]
  constructor
  · intro h
    exact ⟨freeBlockParams s.freeCtr, execConstruct_legal (hlegal.mpr h)⟩
  · intro h
    have hfails : legalParams P = false := Bool.eq_false_iff.mpr (mt hlegal.mp h)
    exact takesFault_execConstruct hfails

/-- Settles O46: between transactions the step is the host's next action, and this one is the command. -/
theorem stepRunsTheCommandOnThePort : Obligations.StepRunsTheCommandOnThePort :=
  fun _ _ _ _ _ hseq hport hi => (step_command hseq).trans (commandStep_of_command hport hi)

/-- Settles O50: `pos` is 0, every buffer is empty, no cause is latched and the instance is not ACTIVE. -/
theorem powerOnMeetsTheInvariant : Obligations.PowerOnMeetsTheInvariant := by
  have hpos : State.reset.pos ≤ State.reset.streamLength := Nat.zero_le _
  have herr : State.reset.err = .none ↔ State.reset.st ≠ .poisoned := iff_of_true rfl nofun
  have hact : State.reset.st = .active → State.reset.ActiveInv := nofun
  exact ⟨rfl, rfl, rfl, hpos, memoryWf_reset, herr, hact⟩

end Sys2Proof.Machine
end
